-- ==== Sys2Proof/Word.lean ====
section
/-! DEFINITION. The word types of the engine: a wire byte, a 16-bit checksum or sample code, a 32-bit host
register, a 12-bit offset in the register window (00_scope R8, 20_memory R70). -/

namespace Sys2Proof

/-- A byte as it crosses the transport or lies in a store (R8). -/
abbrev Byte := BitVec 8

/-- A 16-bit checksum or sample code (R10, R112). -/
abbrev Half := BitVec 16

/-- A 32-bit host register or bus word (R7, R21). -/
abbrev Word := BitVec 32

/-- A byte offset in the 4096-byte register window (R70, R71). -/
abbrev Offset := BitVec 12

end Sys2Proof
end

