-- ==== Sys2Proof/Config.lean ====
section
/-! DEFINITION. What an implementation fixes and the spec leaves open: the model arguments of 00_scope R7 and the
free values of 93_implementation_defined U1, U3. None of the constants has a body, so no proof can see a value
of one (logs 4, 5, 6). -/

namespace Sys2Proof

/-- The model arguments of R7: the two FIFO depths and the bus address of the register window. -/
structure Params where
  sampleDepth : Nat
  fdescDepth : Nat
  base : Nat
  deriving DecidableEq, Repr

/-- The bounds R7 and U3 put on the model arguments. -/
abbrev Params.ok (p : Params) : Prop :=
  (125 ≤ p.sampleDepth ∧ p.sampleDepth ≤ 65535) ∧ (1 ≤ p.fdescDepth ∧ p.fdescDepth ≤ 65535) ∧ p.base % 4 = 0

/-- How far SAMPLE_DEPTH lies above its least value 125 (R7). -/
opaque Config.sampleRoom : Fin 65411

/-- How far FDESC_DEPTH lies above its least value 1 (R7). -/
opaque Config.fdescRoom : Fin 65535

/-- BASE in words (R7, U3). -/
opaque Config.baseWords : Nat

/-- Contents of a byte of TXBUF or RXBUF (at window offset `a`) that nothing has written since the
`boot`-th power-on reset (U1: any value). -/
opaque Config.powerOnByte : (boot a : Nat) → Byte

/-- Contents of PAYBUF[`i`] not written since the `n`-th reset (R47, U1: any value). -/
opaque Config.freePayByte : (n i : Nat) → Byte

/-- The arguments of the machine right after reset: every value R7 admits is possible. -/
def Config.params : Params where
  sampleDepth := Config.sampleRoom.val + 125
  fdescDepth := Config.fdescRoom.val + 1
  base := Config.baseWords * 4

end Sys2Proof
end

