-- ==== Sys2Proof/Syntax.lean ====
section
/-! DEFINITION. The instructions: one constructor for each row of spec/opcode_table.json. The engine runs no
program (10_state R44): a row is a word the host writes to CTRL or STATUS, or a byte (token) the stream
decoder takes from the RX stream in a given phase (30_encoding R102, R103, R116-R119). -/

namespace Sys2Proof

inductive Instr where
  /-- CTRL.OP = 0 (R252). -/
  | nop
  /-- CTRL.OP = 1 (R143). -/
  | cksum
  /-- CTRL.OP = 2 (R144). -/
  | verify
  /-- CTRL.OP = 3 (R160). -/
  | sendCmd
  /-- CTRL.OP = 4 (R191). -/
  | tryDecode
  /-- CTRL.OP = 5 (R192). -/
  | drain
  /-- Reserved CTRL.OP = 6, 7: the table's first BAD_OP row (R253). -/
  | badOpLow (op : BitVec 4)
  /-- Reserved CTRL.OP = 8..15: the table's second BAD_OP row (R253). -/
  | badOpHigh (op : BitVec 4)
  /-- CTRL.ABORT = 1, SRST = 0 (R254). -/
  | abort
  /-- CTRL.SRST = 1 (R255). -/
  | srst
  /-- STATUS written with bit 8 = 1 (R256). -/
  | clrwi
  /-- 0x7E polled while awaiting a marker (R194). -/
  | marker
  /-- Any other byte polled while awaiting a marker (R195). -/
  | unexpected (b : Byte)
  /-- Raw 0x7D in a frame with eng.esc = 0 (R197). -/
  | esc
  /-- Any other raw byte in a frame with eng.esc = 0 (R196, R201). -/
  | lit (b : Byte)
  /-- Any raw byte in a frame with eng.esc = 1 (R197, R118). -/
  | escd (r : Byte)
  /-- Any raw byte in phase STOPRD (R119, R199). -/
  | stopb (r : Byte)
  /-- The third logical header byte, equal to CFG.STOP_CODE; `b` is that logical byte (R196, R198). -/
  | stop (b : Byte)
  deriving DecidableEq, Repr

end Sys2Proof
end

