-- ==== Sys2Proof/WellFormed.lean ====
section
/-! DEFINITION. Which operand values an instruction's row of the opcode table admits (30_encoding R102, R116,
R117). Everything else about an operand is in its width. -/

namespace Sys2Proof

/-- The operand is one the row's encoding admits: reserved operation codes lie in their row's range, an
unexpected byte is not the marker 0x7E, a literal byte is not the escape byte 0x7D. -/
def Instr.wf : Instr → Bool
  | .badOpLow op => op == 6#4 || op == 7#4
  | .badOpHigh op => 8 ≤ op.toNat
  | .unexpected b => b != 0x7E#8
  | .lit b => b != 0x7D#8
  | .nop | .cksum | .verify | .sendCmd | .tryDecode | .drain | .abort | .srst | .clrwi | .marker | .esc => true
  | .escd _ | .stopb _ | .stop _ => true

end Sys2Proof
end

