-- ==== Sys2Proof/Decode.lean ====
section
/-! DEFINITION. The decoder and the encoder. A word arrives in one of the table's formats (its column "format"): a
write to CTRL, a write to STATUS, a byte in one of the decoder's phases. In a format decoding is total: it gives
one instruction, or rejects the word by name. -/

namespace Sys2Proof

/-- The raw byte that marks the start of a frame (R7). -/
def markerByte : Byte := 0x7E#8

/-- The raw byte that starts an escape pair (R7). -/
def escByte : Byte := 0x7D#8

/-- The reset value of CFG.STOP_CODE (R7, R24, 90_conflicts C8). -/
def stopCodeReset : Byte := 0x50#8

/-- The formats of spec/opcode_table.json, with what selects a row in them besides the word. -/
inductive Format where
  /-- CTRL: a 32-bit write to offset 0x000 (R101). -/
  | ctrl
  /-- STATUS_WRITE: a 32-bit write to offset 0x004 (R256). -/
  | statusWrite
  /-- RX8_POLL: a byte polled in phase POLL (R116). -/
  | rxPoll
  /-- RX8_FRAME: a raw byte in HDR or PAY with eng.esc = 0 (R117). -/
  | rxFrame
  /-- RX8_ESCAPED: a raw byte in HDR or PAY with eng.esc = 1 (R118). -/
  | rxEscaped
  /-- RX8_STOPRD: a raw byte in STOPRD (R119). -/
  | rxStoprd
  /-- HDR_BYTE2: logical header byte 2, held against CFG.STOP_CODE (R198). -/
  | hdrByte2 (stopCode : Byte)
  deriving DecidableEq, Repr

/-- Why a word is no instruction in a format. -/
inductive Reject where
  /-- A byte format was given a word with a bit above bit 7. -/
  | widerThanAByte
  /-- A STATUS write with bit 8 = 0: it has no effect (R256). -/
  | statusWithoutClear
  /-- Logical header byte 2 is not CFG.STOP_CODE: no stop (R198). -/
  | notTheStopCode
  deriving DecidableEq, Repr

/-- CTRL.OP alone (R102). -/
def decodeOp (op : BitVec 4) : Instr :=
  if op = 0#4 then .nop
  else if op = 1#4 then .cksum
  else if op = 2#4 then .verify
  else if op = 3#4 then .sendCmd
  else if op = 4#4 then .tryDecode
  else if op = 5#4 then .drain
  else if op.toNat < 8 then .badOpLow op
  else .badOpHigh op

/-- A CTRL write: SRST wins over ABORT, which wins over OP; bits 7:4 and 31:10 are ignored (R103). -/
def decodeCtrl (w : Word) : Instr :=
  if w.getLsbD 9 then .srst
  else if w.getLsbD 8 then .abort
  else decodeOp (w.extractLsb' 0 4)

/-- The byte a word of a byte format holds. -/
def decodeByte (w : Word) : Except Reject Byte :=
  if w.toNat < 256 then .ok (w.setWidth 8) else .error .widerThanAByte

/-- The instruction a word is in a format (R103, R116-R119, R198, R256). -/
def decode (f : Format) (w : Word) : Except Reject Instr :=
  match f with
  | .ctrl => .ok (decodeCtrl w)
  | .statusWrite => if w.getLsbD 8 then .ok .clrwi else .error .statusWithoutClear
  | .rxPoll =>
    match decodeByte w with
    | .ok b => .ok (if b = markerByte then .marker else .unexpected b)
    | .error e => .error e
  | .rxFrame =>
    match decodeByte w with
    | .ok b => .ok (if b = escByte then .esc else .lit b)
    | .error e => .error e
  | .rxEscaped =>
    match decodeByte w with
    | .ok r => .ok (.escd r)
    | .error e => .error e
  | .rxStoprd =>
    match decodeByte w with
    | .ok r => .ok (.stopb r)
    | .error e => .error e
  | .hdrByte2 stopCode =>
    match decodeByte w with
    | .ok b => if b = stopCode then .ok (.stop b) else .error .notTheStopCode
    | .error e => .error e

/-- The format an instruction's row stands in; a stop is a stop when its byte is the stop code. -/
def formatOf : Instr → Format
  | .nop | .cksum | .verify | .sendCmd | .tryDecode | .drain => .ctrl
  | .badOpLow _ | .badOpHigh _ | .abort | .srst => .ctrl
  | .clrwi => .statusWrite
  | .marker | .unexpected _ => .rxPoll
  | .esc | .lit _ => .rxFrame
  | .escd _ => .rxEscaped
  | .stopb _ => .rxStoprd
  | .stop b => .hdrByte2 b

/-- The word of an instruction, with every ignored bit 0 (R102, R103, R116-R119, R256). -/
def encode : Instr → Word
  | .nop => 0x000#32
  | .cksum => 0x001#32
  | .verify => 0x002#32
  | .sendCmd => 0x003#32
  | .tryDecode => 0x004#32
  | .drain => 0x005#32
  | .badOpLow op | .badOpHigh op => op.setWidth 32
  | .abort => 0x100#32
  | .srst => 0x200#32
  | .clrwi => 0x100#32
  | .marker => markerByte.setWidth 32
  | .esc => escByte.setWidth 32
  | .unexpected b | .lit b | .escd b | .stopb b | .stop b => b.setWidth 32

/-- "match" and "mask" of the instruction's row of spec/opcode_table.json, the copy of R103 and R116-R119. The
STOP row's match is CFG.STOP_CODE, here the byte itself. -/
def tableRow : Instr → Word × Word
  | .nop => (0x000#32, 0x30F#32)
  | .cksum => (0x001#32, 0x30F#32)
  | .verify => (0x002#32, 0x30F#32)
  | .sendCmd => (0x003#32, 0x30F#32)
  | .tryDecode => (0x004#32, 0x30F#32)
  | .drain => (0x005#32, 0x30F#32)
  | .badOpLow _ => (0x006#32, 0x30E#32)
  | .badOpHigh _ => (0x008#32, 0x308#32)
  | .abort => (0x100#32, 0x300#32)
  | .srst => (0x200#32, 0x200#32)
  | .clrwi => (0x100#32, 0x100#32)
  | .marker => (0x7E#32, 0xFF#32)
  | .esc => (0x7D#32, 0xFF#32)
  | .unexpected _ | .lit _ | .escd _ | .stopb _ => (0x00#32, 0x00#32)
  | .stop b => (b.setWidth 32, 0xFF#32)

/-- The CTRL rows of the table, as (match, mask) pairs, in the table's order (R103). -/
def ctrlRows : List (Word × Word) :=
  [(0x000#32, 0x30F#32), (0x001#32, 0x30F#32), (0x002#32, 0x30F#32), (0x003#32, 0x30F#32),
   (0x004#32, 0x30F#32), (0x005#32, 0x30F#32), (0x006#32, 0x30E#32), (0x008#32, 0x308#32),
   (0x100#32, 0x300#32), (0x200#32, 0x200#32)]

/-- The word has the row's fixed bits. -/
def rowMatches (row : Word × Word) (w : Word) : Bool := w &&& row.2 == row.1

/-- The format in which a bare byte of the table is read when no phase is given: 0x7D is the table's ESC, 0x50 its
STOP, every other byte a polled one (log 11). -/
def bareByteFormat (b : Byte) : Format :=
  if b = escByte then .rxFrame
  else if b = stopCodeReset then .hdrByte2 stopCodeReset
  else .rxPoll

/-- The host's question about a bare word: more than one byte is a CTRL write, one byte a token (log 11). -/
def decodeTableWord (nbits w : Nat) : Option Instr :=
  if 8 < nbits then (decode .ctrl (BitVec.ofNat 32 w)).toOption
  else (decode (bareByteFormat (BitVec.ofNat 8 w)) ((BitVec.ofNat 8 w).setWidth 32)).toOption

end Sys2Proof
end

