-- ==== Sys2Proof/Machine/State.lean ====
section
/-! DEFINITION. The state of the machine (10_state R20): the register window's registers, the stores and FIFOs, the
engine's internal state, the two byte streams of the transport, and the list of the agents' steps still to come
(20_memory R81). Plain data throughout. INVENTORY.md lists every field with its rule and reset value. -/

namespace Sys2Proof.Machine

/-- Bytes by address, addresses strictly rising; an address not listed has not been written (log 20). -/
abbrev Memory := List Host.Cell

/-- eng.op (R40). -/
inductive Op where
  | none | cksum | verify | sendCmd | tryDecode | drain
  deriving DecidableEq, Repr

/-- eng.phase (R40, R44). -/
inductive Phase where
  | idle | ck | tx | rx | rchk | poll | hdr | stoprd | pay | check | emit
  deriving DecidableEq, Repr

/-- eng.kind and FDESC.KIND (R40, R43). -/
inductive Kind where
  | data | stop
  deriving DecidableEq, Repr

/-- STATUS.RESULT by name; the codes 0xB-0xF are never produced and have no name (R270, U11). `ok` is code 0,
which the field also reads while no result is held (R23). -/
inductive Result where
  | ok | frameDecoded | streamStopped | noData | unexpectedByte | checksumMismatch | transportTimeout
  | lengthMismatch | badOp | badArg | aborted
  deriving DecidableEq, Repr

/-- An entry of the FDESC FIFO (R43); CHAN0 is computed from CHAN_RAW, VALID from the entry being there. -/
structure FDesc where
  chanRaw : Byte
  nsamp : Byte
  kind : Kind
  deriving DecidableEq, Repr

/-- What a host access does at its address (R12, R71). -/
inductive Access where
  | read
  | write (v : Word)
  deriving DecidableEq, Repr

/-- A host access less its address: its size in bytes and what it does (R72). -/
structure Request where
  size : Nat
  access : Access
  deriving DecidableEq, Repr

/-- The bus answer to a host access: the bus error flag and the data returned (R71, R72). -/
structure Response where
  error : Bool
  data : Word
  deriving DecidableEq, Repr

/-- One atomic step of one agent (R5, R80, R81). -/
inductive Event where
  /-- The host accesses the window at a byte offset (R71). -/
  | host (a : Offset) (rq : Request)
  /-- A bus master accesses a bus address; BASE decides whether it is the engine's (R7, R71). -/
  | bus (addr : Nat) (rq : Request)
  /-- The engine's turn. `txReady`: the transport accepts a byte now. `timeUp`: it lets a read that finds no byte
  time out now (R11, R281). -/
  | engine (txReady timeUp : Bool)
  /-- A byte of the device arrives in the transport's queue (R87). -/
  | deliver (b : Byte)
  /-- The platform asserts power-on reset (R300). -/
  | powerOn
  deriving DecidableEq, Repr

structure State where
  -- STATUS (R23)
  busy : Bool
  done : Bool
  result : Result
  wrIgnored : Bool
  -- CFG (R24)
  toEn : Bool
  stopCode : Byte
  -- operand registers (R25-R27)
  cmd : Byte
  txLen : BitVec 10
  respLen : BitVec 10
  -- CKREG, TXCK, RESP_INFO (R28-R30)
  ckCalc : Half
  ckClaim : Half
  txck : Half
  echo : Byte
  respField : Byte
  rxCnt : Nat
  -- HDR, and FRAME_AUX less its two mirrored counts (R33, R37)
  hdr : Vector Byte 8
  aux1 : Byte
  aux2 : Byte
  -- event counters (R34-R36)
  nframes : Word
  dropCnt : Word
  unexpCnt : Word
  -- TXBUF and RXBUF by window offset, PAYBUF by index (R38, R39)
  mem : Memory
  pay : Memory
  -- output FIFOs, oldest first (R42, R43)
  sample : List Half
  fdesc : List FDesc
  -- eng (R40); hcnt and plen are also FRAME_AUX.HDR_CNT and FRAME_AUX.PLEN
  op : Op
  phase : Phase
  esc : Bool
  hcnt : Nat
  plen : Nat
  pcnt : Nat
  scnt : Nat
  kind : Kind
  txpkt : List Byte
  tidx : Nat
  rneed : Nat
  -- the transport: bytes delivered and not consumed, bytes accepted (R70, R87)
  rx : List Byte
  tx : List Byte
  -- the model arguments (R7); no step changes them
  params : Params
  -- the model's own: last bus response, resets so far, steps still to come
  resp : Option Response
  boots : Nat
  resets : Nat
  script : List Event
  deriving DecidableEq, Repr

/-- Reasons the machine stops. There is none: every failure of the engine is a result code (R270), and a bus error
is a response (R72). -/
inductive Fault where
  deriving DecidableEq, Repr

/-- Reasons the model has no step. -/
inductive Refusal where
  /-- Raised by an arm of exec whose instruction has no meaning yet. Safe. No arm raises it. -/
  | notModelled (mnemonic : String)
  deriving DecidableEq, Repr

/-- The machine right after power-on reset (R47, R301), its transport empty and no step to come (logs 1, 7, 8). -/
def State.reset : State where
  busy := false
  done := false
  result := .ok
  wrIgnored := false
  toEn := false
  stopCode := stopCodeReset
  cmd := 0
  txLen := 0
  respLen := 0
  ckCalc := 0
  ckClaim := 0
  txck := 0
  echo := 0
  respField := 0
  rxCnt := 0
  hdr := Vector.replicate 8 0
  aux1 := 0
  aux2 := 0
  nframes := 0
  dropCnt := 0
  unexpCnt := 0
  mem := []
  pay := []
  sample := []
  fdesc := []
  op := .none
  phase := .idle
  esc := false
  hcnt := 0
  plen := 0
  pcnt := 0
  scnt := 0
  kind := .data
  txpkt := []
  tidx := 0
  rneed := 4
  rx := []
  tx := []
  params := Config.params
  resp := none
  boots := 0
  resets := 0
  script := []

end Sys2Proof.Machine
end

