-- ==== Sys2Proof/Machine/Operands.lean ====
section
/-! DEFINITION. The pure functions of the rules, on bytes and numbers alone: byte order, the checksum, the escape
rule, payload length, channel index, sample codes (00_scope R7, R10; 30_encoding R108-R113). -/

namespace Sys2Proof.Machine

/-- The mask an escaped raw byte is ORed with (R7). -/
def escOr : Byte := 0x20#8

/-- What a header length field counts besides the payload (R7, R108). -/
def lenBias : Nat := 4

/-- The largest payload, PAY_MAX (R7). -/
def payMax : Nat := 251

/-- Sizes of TXBUF and RXBUF (R7). -/
def bufSize : Nat := 512

/-- The largest legal TX_LEN (R7). -/
def txLenMax : Nat := 512

/-- The largest legal RESP_LEN (R7). -/
def respLenMax : Nat := 508

/-- `be16`: the value of two bytes sent high byte first (R10). -/
def be16 (hi lo : Byte) : Half := hi ++ lo

/-- `hi8` (R10). -/
def hi8 (v : Half) : Byte := v.extractLsb' 8 8

/-- `lo8` (R10). -/
def lo8 (v : Half) : Byte := v.extractLsb' 0 8

/-- `sext_16`: the two's-complement value of a code (R10, R112). -/
def sext16 (v : Half) : Int := if 32768 ≤ v.toNat then (v.toNat : Int) - 65536 else v.toNat

/-- `zext_32` (R10). -/
def zext32 (v : Half) : Word := v.setWidth 32

/-- The unbounded sum of the bytes' unsigned values (R140). -/
def byteSum (bs : List Byte) : Nat := (bs.map BitVec.toNat).sum

/-- `cksum16`: the byte sum modulo 65536 (R10, R140). -/
def cksum16 (bs : List Byte) : Half := BitVec.ofNat 16 (byteSum bs)

/-- The logical byte of an escape pair: OR, not XOR (R109, 90_conflicts C3). -/
def unescape (r : Byte) : Byte := r ||| escOr

/-- How the device sends a logical byte inside a frame (R110); the engine never escapes. -/
def escapeByte (b : Byte) : List Byte :=
  if b = markerByte ∨ b = escByte then [escByte, b &&& 0xDF#8] else [b]

/-- How the device sends logical bytes inside a frame (R106, R110). -/
def escapeBytes (bs : List Byte) : List Byte := bs.flatMap escapeByte

/-- The logical bytes a raw byte sequence inside a frame gives; none when it ends in a lone escape byte (R109). -/
def unescapeBytes : List Byte → Option (List Byte)
  | [] => some []
  | r :: rest =>
    if r = escByte then
      match rest with
      | [] => none
      | q :: rest => (unescapeBytes rest).map (unescape q :: ·)
    else (unescapeBytes rest).map (r :: ·)

/-- Payload length of a header length field: less 4, and 0 below 4 (R108). -/
def plenOf (len : Byte) : Nat := len.toNat - lenBias

/-- `CHAN0 = (CHAN_RAW - 1) mod 256` (R113). -/
def chan0 (raw : Byte) : Byte := raw - 1

/-- The sample codes of a payload, two bytes each; an odd last byte gives none (R112). -/
def sampleCodes : List Byte → List Half
  | hi :: lo :: rest => be16 hi lo :: sampleCodes rest
  | [_] => []
  | [] => []

/-- `checksum ‖ command-id ‖ payload` (R104, R162). -/
def commandPacket (cmd : Byte) (payload : List Byte) : List Byte :=
  let c := cksum16 (cmd :: payload)
  hi8 c :: lo8 c :: cmd :: payload

end Sys2Proof.Machine
end

