-- ==== Sys2Proof/Machine/Flags.lean ====
section
/-! DEFINITION. STATUS, the only flag register (10_state R23, R45): its result codes, its value as a word, and the
three updates of it that are not a completion. -/

namespace Sys2Proof.Machine

/-- The code of STATUS.RESULT (R270). -/
def Result.code : Result → BitVec 4
  | .ok => 0x0#4
  | .frameDecoded => 0x1#4
  | .streamStopped => 0x2#4
  | .noData => 0x3#4
  | .unexpectedByte => 0x4#4
  | .checksumMismatch => 0x5#4
  | .transportTimeout => 0x6#4
  | .lengthMismatch => 0x7#4
  | .badOp => 0x8#4
  | .badArg => 0x9#4
  | .aborted => 0xA#4

/-- STATUS as the host reads it: BUSY bit 0, DONE bit 1, RESULT 7:4, WR_IGNORED bit 8, the rest 0 (R23). -/
def statusWord (s : State) : Word :=
  0#23 ++ BitVec.ofBool s.wrIgnored ++ s.result.code ++ 0#2 ++ BitVec.ofBool s.done ++ BitVec.ofBool s.busy

/-- A host write dropped because BUSY = 1 (R78). -/
def ignoreWrite (s : State) : State := { s with wrIgnored := true }

/-- STATUS written with bit 8 = 1 (R256). -/
def clearIgnored (s : State) : State := { s with wrIgnored := false }

/-- The first two lines of an operation start: DONE and RESULT cleared (R251). -/
def clearResult (s : State) : State := { s with done := false, result := .ok }

end Sys2Proof.Machine
end

