-- ==== Sys2Proof/Machine/Ops.lean ====
section
/-! DEFINITION. The named operations over the stores, completion, operation start, and the resets. -/

namespace Sys2Proof.Machine

/-- What was last written at an address, if anything was. -/
def memGet : Memory → Nat → Option Byte
  | [], _ => none
  | (k, v) :: m, a => if k = a then some v else memGet m a

/-- Write a byte, keeping addresses strictly rising. -/
def memPut : Memory → Nat → Byte → Memory
  | [], a, b => [(a, b)]
  | (k, v) :: m, a, b =>
    if a < k then (a, b) :: (k, v) :: m
    else if a = k then (a, b) :: m
    else (k, v) :: memPut m a b

/-- The canonical form: addresses strictly rise, so no address is listed twice (log 20). -/
abbrev Memory.wf (m : Memory) : Prop := m.Pairwise fun x y => x.1 < y.1

/-- Window offset of TXBUF[0] (R21). -/
def txbufBase : Nat := 0x200

/-- Window offset of RXBUF[0] (R21). -/
def rxbufBase : Nat := 0x400

/-- The byte of TXBUF or RXBUF at a window offset; one not written since power-on is a free value (R39, U1). -/
def readByte (s : State) (a : Nat) : Byte := (memGet s.mem a).getD (Config.powerOnByte s.boots a)

/-- Write the byte of TXBUF or RXBUF at a window offset. -/
def storeByte (a : Nat) (b : Byte) (s : State) : State := { s with mem := memPut s.mem a b }

/-- TXBUF[i] (R9, R39). -/
def txbuf (s : State) (i : Nat) : Byte := readByte s (txbufBase + i)

/-- RXBUF[i] (R9, R39). -/
def rxbuf (s : State) (i : Nat) : Byte := readByte s (rxbufBase + i)

/-- TXBUF[0 .. n-1]. -/
def txBytes (s : State) (n : Nat) : List Byte := (List.range n).map (txbuf s)

/-- RXBUF[lo .. lo+n-1]. -/
def rxBytes (s : State) (lo n : Nat) : List Byte := (List.range n).map fun i => rxbuf s (lo + i)

/-- The word at a window offset of TXBUF or RXBUF: byte j in bits 8j+7:8j (R76). -/
def readWord (s : State) (a : Nat) : Word :=
  readByte s (a + 3) ++ readByte s (a + 2) ++ readByte s (a + 1) ++ readByte s a

/-- Write a word at a window offset of TXBUF, byte j from bits 8j+7:8j (R76). -/
def storeWord (a : Nat) (v : Word) (s : State) : State :=
  storeByte (a + 3) (v.extractLsb' 24 8) (storeByte (a + 2) (v.extractLsb' 16 8)
    (storeByte (a + 1) (v.extractLsb' 8 8) (storeByte a (v.extractLsb' 0 8) s)))

/-- RXBUF[i] <- b; RXBUF has 512 bytes (R39, R164, log 16). -/
def storeRxbuf (i : Nat) (b : Byte) (s : State) : State :=
  if i < bufSize then storeByte (rxbufBase + i) b s else s

/-- PAYBUF[i]; a byte not written since the last reset is a free value (R38, R47, U1). -/
def paybuf (s : State) (i : Nat) : Byte := (memGet s.pay i).getD (Config.freePayByte s.resets i)

/-- PAYBUF[0 .. n-1]. -/
def payBytes (s : State) (n : Nat) : List Byte := (List.range n).map (paybuf s)

/-- PAYBUF[i] <- b; PAYBUF has 251 bytes (R38, R201, log 16). -/
def storePaybuf (i : Nat) (b : Byte) (s : State) : State :=
  if i < payMax then { s with pay := memPut s.pay i b } else s

/-- `finish(code)`: how every operation ends, and what `raise` means. The engine has no other trap: no saved pc, no
vector, no mode (R12, R272), and no return from one (R274). -/
def finish (r : Result) (s : State) : State :=
  { s with result := r, busy := false, done := true, phase := .idle, op := .none }

/-- `argok` (R251). -/
def argOk (op : Op) (s : State) : Bool :=
  match op with
  | .cksum => decide (s.txLen.toNat ≤ txLenMax)
  | .verify => decide (2 ≤ s.txLen.toNat ∧ s.txLen.toNat ≤ txLenMax)
  | .sendCmd => decide (s.txLen.toNat ≤ txLenMax ∧ s.respLen.toNat ≤ respLenMax)
  | .tryDecode | .drain | .none => true

/-- `start(op)` for the five operations, with the drop of a start while BUSY = 1; `begin` is the operation's own
part, run once BUSY and eng.op are set (R250, R251). -/
def startOp (op : Op) (begin : State → State) (s : State) : State :=
  if s.busy then ignoreWrite s
  else if argOk op (clearResult s) then begin { clearResult s with busy := true, op := op }
  else finish .badArg (clearResult s)

/-- A reserved operation code, with the drop of a start while BUSY = 1 (R250, R251, R253). -/
def startReserved (s : State) : State :=
  if s.busy then ignoreWrite s else finish .badOp (clearResult s)

/-- What no reset touches: the transport's streams, the model arguments, the bus side, the steps to come (R303). -/
def keepOutside (s fresh : State) : State :=
  { fresh with rx := s.rx, tx := s.tx, params := s.params, resp := s.resp, script := s.script }

/-- SRST: every piece of state at its "after SRST" value; TXBUF and RXBUF keep their contents (R47, R255, R302). -/
def softReset (s : State) : State :=
  { keepOutside s State.reset with mem := s.mem, boots := s.boots, resets := s.resets + 1 }

/-- Power-on reset: every piece of state at its "after power-on reset" value; the stores' contents are free again
(R47, R301). -/
def powerOnReset (s : State) : State :=
  { keepOutside s State.reset with boots := s.boots + 1, resets := s.resets + 1 }

end Sys2Proof.Machine
end

