-- ==== Sys2Proof/Machine/Checksum.lean ====
section
/-! DEFINITION. The Checksum unit (40_checksum): the starts of CKSUM and VERIFY, and their one engine step. -/

namespace Sys2Proof.Machine

/-- CKSUM, the CTRL write: started in phase CK (R143, R251). -/
def execCksum (s : State) : Host.Outcome State Fault Refusal :=
  .next (startOp .cksum (fun t => { t with phase := .ck }) s)

/-- VERIFY, the CTRL write: started in phase CK (R144, R251). -/
def execVerify (s : State) : Host.Outcome State Fault Refusal :=
  .next (startOp .verify (fun t => { t with phase := .ck }) s)

/-- CKSUM's engine step (R143). -/
def cksumStep (s : State) : State :=
  finish .ok { s with ckCalc := cksum16 (txBytes s s.txLen.toNat), ckClaim := 0 }

/-- VERIFY's engine step: TXBUF[0..1] is the claim, TXBUF[2..n-1] the payload (R144). -/
def verifyStep (s : State) : State :=
  let claim := be16 (txbuf s 0) (txbuf s 1)
  let computed := cksum16 ((txBytes s s.txLen.toNat).drop 2)
  finish (if computed = claim then .ok else .checksumMismatch) { s with ckClaim := claim, ckCalc := computed }

/-- The engine step of phase CK; no other operation has that phase (R44). -/
def ckStep (s : State) : State :=
  match s.op with
  | .cksum => cksumStep s
  | .verify => verifyStep s
  | .none | .sendCmd | .tryDecode | .drain => s

end Sys2Proof.Machine
end

