-- ==== Sys2Proof/Machine/Command.lean ====
section
/-! DEFINITION. The Command/Response framer (41_command_codec): the start of SEND_CMD and its phases TX, RX, RCHK. -/

namespace Sys2Proof.Machine

/-- The start of SEND_CMD (R161). -/
def beginSend (s : State) : State :=
  let payload := txBytes s s.txLen.toNat
  { s with
    txck := cksum16 (s.cmd :: payload)
    txpkt := commandPacket s.cmd payload
    tidx := 0
    rneed := 4 + s.respLen.toNat
    echo := 0
    respField := 0
    rxCnt := 0
    phase := .tx }

/-- SEND_CMD, the CTRL write (R160, R161, R251). -/
def execSendCmd (s : State) : Host.Outcome State Fault Refusal :=
  .next (startOp .sendCmd beginSend s)

/-- Phase TX at a turn at which the transport accepts a byte (R163). -/
def txStep (s : State) : State :=
  match s.txpkt[s.tidx]? with
  | some b =>
    { s with
      tx := s.tx ++ [b]
      tidx := s.tidx + 1
      phase := if s.tidx + 1 = s.txpkt.length then .rx else .tx }
  | none => s

/-- Phase RX on a byte received (R164). -/
def rxStep (r : Byte) (s : State) : State :=
  let k := s.rxCnt
  { storeRxbuf k r s with
    rxCnt := k + 1
    echo := if k = 2 then r else s.echo
    respField := if k = 3 then r else s.respField
    phase := if k + 1 = s.rneed then .rchk else .rx }

/-- Phase RCHK: the checksum is tested first, then the length field (R166-R168). -/
def rchkStep (s : State) : State :=
  let claim := be16 (rxbuf s 0) (rxbuf s 1)
  let computed := cksum16 (rxBytes s 2 (s.rneed - 2))
  finish
    (if computed ≠ claim then .checksumMismatch
     else if (rxbuf s 3).toNat ≠ s.respLen.toNat then .lengthMismatch
     else .ok)
    { s with ckClaim := claim, ckCalc := computed }

end Sys2Proof.Machine
end

