-- ==== Sys2Proof/Machine/Control.lean ====
section
/-! DEFINITION. The control operations (43_control): NOP, the reserved codes, ABORT, SRST, the STATUS write. -/

namespace Sys2Proof.Machine

/-- NOP: no state changes, even while BUSY = 1 (R252). -/
def execNop (s : State) : Host.Outcome State Fault Refusal := .next s

/-- Reserved codes 6 and 7 (R253). -/
def execBadOpLow (_op : BitVec 4) (s : State) : Host.Outcome State Fault Refusal := .next (startReserved s)

/-- Reserved codes 8 to 15 (R253). -/
def execBadOpHigh (_op : BitVec 4) (s : State) : Host.Outcome State Fault Refusal := .next (startReserved s)

/-- ABORT: an operation that runs finishes ABORTED and keeps what it wrote; otherwise no effect (R254). -/
def execAbort (s : State) : Host.Outcome State Fault Refusal :=
  .next (if s.busy then finish .aborted { s with esc := false } else s)

/-- SRST (R255). -/
def execSrst (s : State) : Host.Outcome State Fault Refusal := .next (softReset s)

/-- CLRWI: accepted while BUSY = 1 too (R256). -/
def execClrwi (s : State) : Host.Outcome State Fault Refusal := .next (clearIgnored s)

end Sys2Proof.Machine
end

