-- ==== Sys2Proof/Machine/Stream.lean ====
section
/-! DEFINITION. The Streaming Frame Decoder (42_stream_decoder): the starts of TRY_DECODE and DRAIN, the meaning of
each token, and the engine steps that take no byte. A token outside the phase its row names has no effect (log 9). -/

namespace Sys2Proof.Machine

/-- The start of TRY_DECODE and of DRAIN (R191, R192). -/
def beginDecode (s : State) : State := { s with nframes := 0, phase := .poll }

/-- TRY_DECODE, the CTRL write (R191, R251). -/
def execTryDecode (s : State) : Host.Outcome State Fault Refusal :=
  .next (startOp .tryDecode beginDecode s)

/-- DRAIN, the CTRL write (R192, R251). -/
def execDrain (s : State) : Host.Outcome State Fault Refusal :=
  .next (startOp .drain beginDecode s)

/-- A point at which TRY_DECODE ends with a result and DRAIN goes on in POLL (R191, R192). -/
def endTryOrPoll (r : Result) (s : State) : State :=
  if s.op = .tryDecode then finish r s else { s with phase := .poll }

/-- The per-frame reset of the decoder (R194). -/
def startFrame (s : State) : State :=
  { s with hdr := Vector.replicate 8 0, hcnt := 0, plen := 0, pcnt := 0, scnt := 0, esc := false, phase := .hdr }

/-- MARKER (R194). -/
def execMarker (s : State) : Host.Outcome State Fault Refusal :=
  .next (if s.phase = .poll then startFrame s else s)

/-- UNEXPECTED (R195). -/
def execUnexpected (b : Byte) (s : State) : Host.Outcome State Fault Refusal :=
  .next (if s.phase = .poll then
    endTryOrPoll .unexpectedByte { s with unexpCnt := s.unexpCnt + 1, aux1 := b } else s)

/-- Phase POLL when the poll finds no byte (R193). -/
def pollEmptyStep (s : State) : State := finish (if s.op = .tryDecode then .noData else .ok) s

/-- The phases in which the escape rule applies (R109, R117). -/
def inFrame (s : State) : Bool := decide (s.phase = .hdr ∨ s.phase = .pay)

/-- The next logical header byte is stored and counted (R196). -/
def storeHdr (b : Byte) (s : State) : State :=
  { s with hdr := s.hdr.setIfInBounds s.hcnt b, hcnt := s.hcnt + 1 }

/-- A stop is detected (R198). -/
def enterStop (s : State) : State := { s with scnt := 0, phase := .stoprd }

/-- The header is complete (R200). -/
def headerDone (s : State) : State :=
  { s with
    plen := plenOf s.hdr[3]
    pcnt := 0
    esc := false
    phase := if plenOf s.hdr[3] = 0 then .check else .pay }

/-- A logical byte in phase HDR: stored, then the stop test at the third, the end at the eighth (R196). -/
def acceptHdr (b : Byte) (s : State) : State :=
  let t := storeHdr b s
  if t.hcnt = 3 ∧ t.hdr[2] = t.stopCode then enterStop t
  else if t.hcnt = 8 then headerDone t
  else t

/-- A logical byte in phase PAY (R201). -/
def acceptPay (b : Byte) (s : State) : State :=
  { storePaybuf s.pcnt b s with
    pcnt := s.pcnt + 1
    phase := if s.pcnt + 1 = s.plen then .check else .pay }

/-- A logical byte of a frame (R196, R201). -/
def acceptLogical (b : Byte) (s : State) : State :=
  match s.phase with
  | .hdr => acceptHdr b s
  | .pay => acceptPay b s
  | .idle | .ck | .tx | .rx | .rchk | .poll | .stoprd | .check | .emit => s

/-- ESC: no logical byte; the next raw byte is escaped (R197). -/
def execEsc (s : State) : Host.Outcome State Fault Refusal :=
  .next (if inFrame s && !s.esc then { s with esc := true } else s)

/-- LIT: the raw byte is the logical byte, 0x7E included (R196, R201, R208). -/
def execLit (b : Byte) (s : State) : Host.Outcome State Fault Refusal :=
  .next (if inFrame s && !s.esc then acceptLogical b s else s)

/-- ESCD: the second byte of an escape pair (R197, R201). -/
def execEscd (r : Byte) (s : State) : Host.Outcome State Fault Refusal :=
  .next (if inFrame s && s.esc then acceptLogical (unescape r) { s with esc := false } else s)

/-- STOP: the third logical header byte is the stop code; it is stored and the header abandoned (R196, R198). -/
def execStop (b : Byte) (s : State) : Host.Outcome State Fault Refusal :=
  .next (if s.phase = .hdr ∧ s.hcnt = 2 ∧ b = s.stopCode then
    enterStop (storeHdr b { s with esc := false }) else s)

/-- STOPB: a raw byte of a stop notification, first the command echo, then the channel id (R199). -/
def execStopb (r : Byte) (s : State) : Host.Outcome State Fault Refusal :=
  .next (if s.phase = .stoprd then
    if s.scnt = 0 then { s with aux1 := r, scnt := 1 }
    else { s with aux2 := r, kind := .stop, phase := .emit }
  else s)

/-- The bytes the streaming checksum covers: HDR[2..7] and the payload (R114). -/
def streamCovered (s : State) : List Byte := s.hdr.toList.drop 2 ++ payBytes s s.plen

/-- Phase CHECK: a mismatch drops the frame (R202, R203). -/
def checkStep (s : State) : State :=
  let computed := cksum16 (streamCovered s)
  let claim := be16 s.hdr[0] s.hdr[1]
  let t := { s with ckCalc := computed, ckClaim := claim }
  if computed = claim then { t with kind := .data, phase := .emit }
  else endTryOrPoll .noData { t with dropCnt := s.dropCnt + 1 }

/-- The sample codes the frame in EMIT pushes: none for a stop (R204). -/
def emitCodes (s : State) : List Half :=
  match s.kind with
  | .data => sampleCodes (payBytes s s.plen)
  | .stop => []

/-- The descriptor the frame in EMIT pushes (R43, R204). -/
def emitDesc (s : State) : FDesc :=
  match s.kind with
  | .data => { chanRaw := s.hdr[4], nsamp := BitVec.ofNat 8 (s.plen / 2), kind := .data }
  | .stop => { chanRaw := s.aux2, nsamp := 0, kind := .stop }

/-- The number of samples the frame in EMIT needs room for (R205). -/
def emitCount (s : State) : Nat :=
  match s.kind with
  | .data => s.plen / 2
  | .stop => 0

/-- Both FIFOs have room for the frame in EMIT (R205). -/
def emitRoom (s : State) : Bool :=
  decide (s.sample.length + emitCount s ≤ s.params.sampleDepth ∧ s.fdesc.length + 1 ≤ s.params.fdescDepth)

/-- All pushes of an EMIT step at once (R80, R204). -/
def pushFrame (s : State) : State :=
  { s with sample := s.sample ++ emitCodes s, fdesc := s.fdesc ++ [emitDesc s] }

/-- Phase EMIT: without room the engine has no step (R204, R205). -/
def emitStep (s : State) : State :=
  if emitRoom s then
    match s.kind with
    | .data => endTryOrPoll .frameDecoded { pushFrame s with nframes := s.nframes + 1 }
    | .stop => finish .streamStopped (pushFrame s)
  else s

/-- A blocking read that finds no byte: it may time out only with CFG.TO_EN = 1, otherwise it waits (R11, R165,
R207, R281). -/
def readWaits (timeUp : Bool) (s : State) : State :=
  if s.toEn && timeUp then finish .transportTimeout s else s

end Sys2Proof.Machine
end

