-- ==== Sys2Proof/Machine/Dispatch.lean ====
section
/-! DEFINITION. One arm per instruction, each one call of its meaning. -/

namespace Sys2Proof.Machine

def exec (i : Instr) (s : State) : Host.Outcome State Fault Refusal :=
  match i with
  | .nop => Sys2Proof.Machine.execNop s
  | .cksum => Sys2Proof.Machine.execCksum s
  | .verify => Sys2Proof.Machine.execVerify s
  | .sendCmd => Sys2Proof.Machine.execSendCmd s
  | .tryDecode => Sys2Proof.Machine.execTryDecode s
  | .drain => Sys2Proof.Machine.execDrain s
  | .badOpLow op => Sys2Proof.Machine.execBadOpLow op s
  | .badOpHigh op => Sys2Proof.Machine.execBadOpHigh op s
  | .abort => Sys2Proof.Machine.execAbort s
  | .srst => Sys2Proof.Machine.execSrst s
  | .clrwi => Sys2Proof.Machine.execClrwi s
  | .marker => Sys2Proof.Machine.execMarker s
  | .unexpected b => Sys2Proof.Machine.execUnexpected b s
  | .esc => Sys2Proof.Machine.execEsc s
  | .lit b => Sys2Proof.Machine.execLit b s
  | .escd r => Sys2Proof.Machine.execEscd r s
  | .stopb r => Sys2Proof.Machine.execStopb r s
  | .stop b => Sys2Proof.Machine.execStop b s

end Sys2Proof.Machine
end

