-- ==== Sys2Proof/Machine/Window.lean ====
section
/-! DEFINITION. The register window as the host reads and writes it (10_state R21-R43, 20_memory R70-R79). The
writes to CTRL and STATUS are instructions and stand in Fetch.lean. -/

namespace Sys2Proof.Machine

/-- Register offsets (R21). -/
def offCtrl : Nat := 0x000
def offStatus : Nat := 0x004
def offCfg : Nat := 0x008
def offCmdId : Nat := 0x00C
def offTxLen : Nat := 0x010
def offRespLen : Nat := 0x014
def offCkreg : Nat := 0x018
def offTxck : Nat := 0x01C
def offRespInfo : Nat := 0x020
def offHdrLo : Nat := 0x024
def offHdrHi : Nat := 0x028
def offFrameAux : Nat := 0x02C
def offNframes : Nat := 0x030
def offDropCnt : Nat := 0x034
def offUnexpCnt : Nat := 0x038
def offFifoLvl : Nat := 0x03C
def offSample : Nat := 0x040
def offFdesc : Nat := 0x044

/-- The offset is one of TXBUF (R21). -/
def inTxbuf (a : Nat) : Bool := decide (txbufBase ≤ a ∧ a < txbufBase + bufSize)

/-- The offset is one of RXBUF (R21). -/
def inRxbuf (a : Nat) : Bool := decide (rxbufBase ≤ a ∧ a < rxbufBase + bufSize)

/-- CFG: STOP_CODE in 15:8, TO_EN in bit 0 (R24). -/
def cfgWord (s : State) : Word := 0#16 ++ s.stopCode ++ 0#7 ++ BitVec.ofBool s.toEn

/-- CKREG: CLAIM in 31:16, CALC in 15:0 (R28). -/
def ckregWord (s : State) : Word := s.ckClaim ++ s.ckCalc

/-- RESP_INFO: RX_CNT in 25:16, LEN in 15:8, ECHO in 7:0 (R30). -/
def respInfoWord (s : State) : Word := 0#6 ++ BitVec.ofNat 10 s.rxCnt ++ s.respField ++ s.echo

/-- HDR_LO: HDR[0] in the low byte (R31, R76). -/
def hdrLoWord (s : State) : Word := s.hdr[3] ++ s.hdr[2] ++ s.hdr[1] ++ s.hdr[0]

/-- HDR_HI: HDR[4] in the low byte (R32, R76). -/
def hdrHiWord (s : State) : Word := s.hdr[7] ++ s.hdr[6] ++ s.hdr[5] ++ s.hdr[4]

/-- FRAME_AUX: PLEN in 31:24, HDR_CNT in 19:16, AUX2 in 15:8, AUX1 in 7:0 (R33). -/
def frameAuxWord (s : State) : Word :=
  BitVec.ofNat 8 s.plen ++ 0#4 ++ BitVec.ofNat 4 s.hcnt ++ s.aux2 ++ s.aux1

/-- FIFO_LVL: FLVL in 31:16, SLVL in 15:0 (R41). -/
def fifoLvlWord (s : State) : Word := BitVec.ofNat 16 s.fdesc.length ++ BitVec.ofNat 16 s.sample.length

/-- What a pop of SAMPLE returns: VALID in bit 31, CODE in 15:0 (R42). -/
def sampleWord (c : Half) : Word := 1#1 ++ 0#15 ++ c

/-- FDESC.KIND (R43). -/
def Kind.code : Kind → BitVec 2
  | .data => 0b01#2
  | .stop => 0b10#2

/-- What a pop of FDESC returns (R43). -/
def fdescWord (d : FDesc) : Word := 1#1 ++ 0#5 ++ d.kind.code ++ chan0 d.chanRaw ++ d.nsamp ++ d.chanRaw

/-- The value a legal read at an offset returns (R21); CTRL and reserved offsets read 0 (R22, R73). -/
def readValue (a : Nat) (s : State) : Word :=
  if a = offStatus then statusWord s
  else if a = offCfg then cfgWord s
  else if a = offCmdId then s.cmd.setWidth 32
  else if a = offTxLen then s.txLen.setWidth 32
  else if a = offRespLen then s.respLen.setWidth 32
  else if a = offCkreg then ckregWord s
  else if a = offTxck then zext32 s.txck
  else if a = offRespInfo then respInfoWord s
  else if a = offHdrLo then hdrLoWord s
  else if a = offHdrHi then hdrHiWord s
  else if a = offFrameAux then frameAuxWord s
  else if a = offNframes then s.nframes
  else if a = offDropCnt then s.dropCnt
  else if a = offUnexpCnt then s.unexpCnt
  else if a = offFifoLvl then fifoLvlWord s
  else if a = offSample then (s.sample.head?.map sampleWord).getD 0
  else if a = offFdesc then (s.fdesc.head?.map fdescWord).getD 0
  else if inTxbuf a || inRxbuf a then readWord s a
  else 0

/-- The side effect of a legal read: a pop at SAMPLE and FDESC, none elsewhere (R77). -/
def readEffect (a : Nat) (s : State) : State :=
  if a = offSample then { s with sample := s.sample.tail }
  else if a = offFdesc then { s with fdesc := s.fdesc.tail }
  else s

/-- A bus answer. -/
def respond (error : Bool) (data : Word) (s : State) : State :=
  { s with resp := some { error := error, data := data } }

/-- A legal read: accepted while BUSY = 1 too (R71, R78). -/
def hostRead (a : Nat) (s : State) : State := respond false (readValue a s) (readEffect a s)

/-- The registers a host write changes, and TXBUF (R21, R78). -/
def writable (a : Nat) : Bool :=
  decide (a = offCfg ∨ a = offCmdId ∨ a = offTxLen ∨ a = offRespLen) || inTxbuf a

/-- A write that is applied: a field takes its bits, the rest of the word is ignored (R24-R27, R73, R257). -/
def applyWrite (a : Nat) (v : Word) (s : State) : State :=
  if a = offCfg then { s with toEn := v.getLsbD 0, stopCode := v.extractLsb' 8 8 }
  else if a = offCmdId then { s with cmd := v.extractLsb' 0 8 }
  else if a = offTxLen then { s with txLen := v.extractLsb' 0 10 }
  else if a = offRespLen then { s with respLen := v.extractLsb' 0 10 }
  else if inTxbuf a then storeWord a v s
  else s

/-- A legal write to any register but CTRL and STATUS: dropped while BUSY = 1 (R78); ignored without a trace at RO and
POP registers, RXBUF and reserved offsets (R73, R79). -/
def hostWrite (a : Nat) (v : Word) (s : State) : State :=
  if writable a then
    if s.busy then ignoreWrite s else applyWrite a v s
  else s

/-- The access is one the engine serves: four bytes at a multiple of 4 (R72). -/
def legalAccess (a : Offset) (rq : Request) : Bool := decide (rq.size = 4 ∧ a.toNat % 4 = 0)

/-- The offset in the window of a bus address, if it is the engine's (R71, R122). -/
def busOffset (p : Params) (addr : Nat) : Option Offset :=
  if p.base ≤ addr ∧ addr < p.base + 4096 then some (BitVec.ofNat 12 (addr - p.base)) else none

end Sys2Proof.Machine
end

