-- ==== Sys2Proof/Machine/Fetch.lean ====
section
/-! DEFINITION. What the next atomic step is (20_memory R80, R81). Either it presents an instruction, a word of the
opcode table in its format, and the state in which it runs; or it is a step that takes no such word, and it is done
here. -/

namespace Sys2Proof.Machine

/-- The next step presents an instruction to run in a state, or is done. -/
inductive Fetched where
  | run (i : Instr) (s : State)
  | done (s : State)
  deriving DecidableEq, Repr

/-- Run the instruction a word is in a format; a word that is none has no effect. -/
def present (f : Format) (w : Word) (s : State) : Fetched :=
  match decode f w with
  | .ok i => .run i s
  | .error _ => .done s

/-- The logical byte a raw byte gives in a frame (R109, R196). -/
def logicalByte (s : State) (r : Byte) : Byte := if s.esc then unescape r else r

/-- The raw byte completes logical header byte 2 and that byte is the stop code (R198). -/
def completesStop (s : State) (r : Byte) : Bool :=
  decide (s.phase = .hdr ∧ s.hcnt = 2 ∧ (s.esc = true ∨ r ≠ escByte) ∧ logicalByte s r = s.stopCode)

/-- The format in which the engine takes its next raw byte, and the word it is there (R116-R119, R198). -/
def tokenOf (s : State) (r : Byte) : Format × Word :=
  if s.phase = .poll then (.rxPoll, r.setWidth 32)
  else if s.phase = .stoprd then (.rxStoprd, r.setWidth 32)
  else if completesStop s r then (.hdrByte2 s.stopCode, (logicalByte s r).setWidth 32)
  else if s.esc then (.rxEscaped, r.setWidth 32)
  else (.rxFrame, r.setWidth 32)

/-- The engine takes a raw byte as a token, consuming it (R11). -/
def takeToken (r : Byte) (rest : List Byte) (s : State) : Fetched :=
  present (tokenOf s r).1 (tokenOf s r).2 { s with rx := rest }

/-- The engine's turn: one step of its phase, or none where the phase waits (R44, R190, U12). -/
def engineTurn (txReady timeUp : Bool) (s : State) : Fetched :=
  match s.phase with
  | .idle => .done s
  | .ck => .done (ckStep s)
  | .tx => .done (if txReady then txStep s else s)
  | .rx =>
    match s.rx with
    | [] => .done (readWaits timeUp s)
    | r :: rest => .done (rxStep r { s with rx := rest })
  | .rchk => .done (rchkStep s)
  | .poll =>
    match s.rx with
    | [] => .done (pollEmptyStep s)
    | r :: rest => takeToken r rest s
  | .hdr | .pay | .stoprd =>
    match s.rx with
    | [] => .done (readWaits timeUp s)
    | r :: rest => takeToken r rest s
  | .check => .done (checkStep s)
  | .emit => .done (emitStep s)

/-- A host access: a bus error with no effect (R72), a read, or a write; a write of CTRL or STATUS presents an
instruction (R250, R256). -/
def hostAccess (a : Offset) (rq : Request) (s : State) : Fetched :=
  if legalAccess a rq then
    match rq.access with
    | .read => .done (hostRead a.toNat s)
    | .write v =>
      if a.toNat = offCtrl then present .ctrl v (respond false 0 s)
      else if a.toNat = offStatus then present .statusWrite v (respond false 0 s)
      else .done (hostWrite a.toNat v (respond false 0 s))
  else .done (respond true 0 s)

/-- An access by bus address: one outside the window is not the engine's (R71). -/
def busAccess (addr : Nat) (rq : Request) (s : State) : Fetched :=
  match busOffset s.params addr with
  | some a => hostAccess a rq s
  | none => .done s

/-- What an agent's step does. -/
def fetchEvent (e : Event) (s : State) : Fetched :=
  match e with
  | .host a rq => hostAccess a rq s
  | .bus addr rq => busAccess addr rq s
  | .engine txReady timeUp => engineTurn txReady timeUp s
  | .deliver b => .done { s with rx := s.rx ++ [b] }
  | .powerOn => .done (powerOnReset s)

/-- The next step of the run; with no step to come the machine stays as it is (log 1). -/
def fetch (s : State) : Fetched :=
  match s.script with
  | [] => .done s
  | e :: rest => fetchEvent e { s with script := rest }

/-- A host write of CTRL, placed as the next step (log 12). -/
def placeCtrl (w : Word) (s : State) : State :=
  { s with script := .host (BitVec.ofNat 12 offCtrl) { size := 4, access := .write w } :: s.script }

/-- A byte placed to be the next the engine reads, at its next turn. -/
def placeByte (b : Byte) (s : State) : State :=
  { s with rx := b :: s.rx, script := .engine true false :: s.script }

/-- The decoder brought to where it takes a token of a format: a TRY_DECODE in the format's phase (log 12). -/
def enterFormat (f : Format) (s : State) : State :=
  let t := { s with busy := true, done := false, result := .ok, op := .tryDecode }
  match f with
  | .ctrl | .statusWrite => s
  | .rxPoll => { t with phase := .poll }
  | .rxFrame => { t with phase := .hdr, hcnt := 0, esc := false }
  | .rxEscaped => { t with phase := .hdr, hcnt := 0, esc := true }
  | .rxStoprd => { t with phase := .stoprd, hcnt := 3, scnt := 0, esc := false }
  | .hdrByte2 stopCode => { t with phase := .hdr, hcnt := 2, esc := false, stopCode := stopCode }

/-- A table word placed where the next step runs it (log 12). -/
def placeTableWord (s : State) (nbits w : Nat) : State :=
  if 8 < nbits then placeCtrl (BitVec.ofNat 32 w) s
  else placeByte (BitVec.ofNat 8 w) (enterFormat (bareByteFormat (BitVec.ofNat 8 w)) s)

end Sys2Proof.Machine
end

