-- ==== Sys2Proof/Safety.lean ====
section
/-! DEFINITION. What claims about whole runs are stated in: the results an operation may end with, the phases it may
be in, and the invariant of every state the machine reaches. -/

namespace Sys2Proof.Machine

/-- The results with which an operation, once started, may finish (R271; BAD_ARG and BAD_OP belong to the start). -/
def resultsOf : Op → List Result
  | .none => []
  | .cksum => [.ok, .aborted]
  | .verify => [.ok, .checksumMismatch, .aborted]
  | .sendCmd => [.ok, .transportTimeout, .checksumMismatch, .lengthMismatch, .aborted]
  | .tryDecode => [.frameDecoded, .streamStopped, .noData, .unexpectedByte, .transportTimeout, .aborted]
  | .drain => [.ok, .streamStopped, .transportTimeout, .aborted]

/-- The phases of an operation (R44). -/
def phasesOf : Op → List Phase
  | .none => [.idle]
  | .cksum | .verify => [.ck]
  | .sendCmd => [.tx, .rx, .rchk]
  | .tryDecode | .drain => [.poll, .hdr, .stoprd, .pay, .check, .emit]

/-- What holds of the frame or packet in progress in each phase (R161-R168, R194-R204). -/
def State.phaseInv (s : State) : Prop :=
  match s.phase with
  | .idle | .ck | .poll => True
  | .tx => s.tidx < s.txpkt.length ∧ s.rxCnt = 0
  | .rx => s.tidx = s.txpkt.length ∧ s.rxCnt < s.rneed
  | .rchk => s.tidx = s.txpkt.length ∧ s.rxCnt = s.rneed
  | .hdr => s.hcnt < 8 ∧ (3 ≤ s.hcnt → s.hdr[2] ≠ s.stopCode)
  | .stoprd => s.hcnt = 3 ∧ s.hdr[2] = s.stopCode ∧ s.esc = false
  | .pay => s.hcnt = 8 ∧ s.hdr[2] ≠ s.stopCode ∧ s.pcnt < s.plen
  | .check => s.hcnt = 8 ∧ s.hdr[2] ≠ s.stopCode ∧ s.pcnt = s.plen ∧ s.esc = false
  | .emit =>
    s.esc = false ∧
    match s.kind with
    | .data => s.hcnt = 8 ∧ s.hdr[2] ≠ s.stopCode ∧ s.pcnt = s.plen
    | .stop => s.hcnt = 3 ∧ s.hdr[2] = s.stopCode

/-- The byte stores: canonical, and listing only addresses of the stores (R38, R39). -/
structure State.StoresInv (s : State) : Prop where
  mem_wf : Memory.wf s.mem
  mem_in : ∀ c ∈ s.mem, inTxbuf c.1 ∨ inRxbuf c.1
  pay_wf : Memory.wf s.pay
  pay_in : ∀ c ∈ s.pay, c.1 < payMax

/-- The engine's flags, operation and phase agree (R23, R40, R44), and its operation's arguments are legal ones,
still those it started with (R85, R251). -/
structure State.OpInv (s : State) : Prop where
  busy_op : s.busy = true ↔ s.op ≠ .none
  phase_op : s.phase ∈ phasesOf s.op
  busy_result : s.busy = true → s.done = false ∧ s.result = .ok
  args : argOk s.op s = true
  packet : s.op = .sendCmd → s.txpkt = commandPacket s.cmd (txBytes s s.txLen.toNat) ∧ s.rneed = 4 + s.respLen.toNat

/-- The counts stay in the ranges R30 and R40 give them; unwritten header bytes are 0 (R37); the payload length is
the header's (R108, R200); the payload bytes counted have been written (R38). -/
structure State.CountInv (s : State) : Prop where
  hcnt_le : s.hcnt ≤ 8
  plen_eq : s.plen = if s.hcnt = 8 then plenOf s.hdr[3] else 0
  pcnt_le : s.pcnt ≤ s.plen
  scnt_le : s.scnt ≤ 1
  tidx_le : s.tidx ≤ s.txpkt.length
  txpkt_le : s.txpkt.length ≤ 515
  rneed_range : 4 ≤ s.rneed ∧ s.rneed ≤ 512
  rxCnt_le : s.rxCnt ≤ s.rneed
  hdr_zero : ∀ i, (h : i < 8) → s.hcnt ≤ i → s.hdr[i] = 0
  pay_written : ∀ i, i < s.pcnt → (memGet s.pay i).isSome = true

/-- The FIFOs are within their depths and hold only descriptors R43 admits. -/
structure State.FifoInv (s : State) : Prop where
  params_ok : s.params.ok
  sample_le : s.sample.length ≤ s.params.sampleDepth
  fdesc_le : s.fdesc.length ≤ s.params.fdescDepth
  fdesc_ok : ∀ d ∈ s.fdesc, d.nsamp.toNat ≤ 125 ∧ (d.kind = .stop → d.nsamp = 0)

/-- The invariant of every state the machine reaches. -/
structure State.Inv (s : State) : Prop where
  op : s.OpInv
  count : s.CountInv
  fifo : s.FifoInv
  stores : s.StoresInv
  phase : s.phaseInv

/-- The fields a reset gives a value, at the values R47 states for them. -/
def State.AtResetValues (t : State) : Prop :=
  statusWord t = 0x00000000#32 ∧ cfgWord t = 0x00005000#32 ∧
  t.cmd = 0 ∧ t.txLen = 0 ∧ t.respLen = 0 ∧
  ckregWord t = 0 ∧ t.txck = 0 ∧ t.rxCnt = 0 ∧ respInfoWord t = 0 ∧
  (∀ i, (h : i < 8) → t.hdr[i] = 0) ∧ frameAuxWord t = 0 ∧ t.nframes = 0 ∧ t.dropCnt = 0 ∧ t.unexpCnt = 0 ∧
  t.sample = [] ∧ t.fdesc = [] ∧
  t.op = .none ∧ t.phase = .idle ∧ t.esc = false ∧ t.hcnt = 0 ∧ t.plen = 0 ∧ t.pcnt = 0 ∧ t.scnt = 0 ∧
  t.kind = .data ∧ t.txpkt = [] ∧ t.tidx = 0 ∧ t.rneed = 4

/-- A run in which the engine alone moves, `turns` saying at each turn what the transport allows. -/
def engineTurns (turns : List (Bool × Bool)) : List Event := turns.map fun c => .engine c.1 c.2

end Sys2Proof.Machine
end

