-- ==== Sys2Proof/Certificates/Slice0/Obligations.lean ====
section
/-! DEFINITION. The statements for the provers. Where a conclusion is an equation `… = .next { s with … }`, every
field of State not named in it is unchanged: that is the statement's frame, memory and FIFOs included. -/

open Sys2Proof Sys2Proof.Machine

/-! ## Encoding -/

/-- R101-R103, R116-R119, R198, R256: every well-formed instruction is read back from its own word. -/
def Obligations.DecodeOfEncodeIsTheInstruction : Prop :=
  ∀ i : Instr, i.wf = true → decode (formatOf i) (encode i) = .ok i

/-- Whatever the decoder reads is well formed, and its word has the fixed bits of the instruction's table row. -/
def Obligations.DecodedWordHasItsRowsFixedBits : Prop :=
  ∀ (f : Format) (w : Word) (i : Instr), decode f w = .ok i → i.wf = true ∧ rowMatches (tableRow i) w = true

/-- R103: SRST, then ABORT, then OP select; no other bit does; each word matches exactly one CTRL row, the row of the
instruction it decodes to. -/
def Obligations.CtrlWordSelectsExactlyOneRow : Prop :=
  ∀ w : Word,
    (w.getLsbD 9 = true → decodeCtrl w = .srst) ∧
    (w.getLsbD 9 = false → w.getLsbD 8 = true → decodeCtrl w = .abort) ∧
    (w.getLsbD 9 = false → w.getLsbD 8 = false →
      decodeCtrl w = match (w &&& 0xF#32).toNat with
        | 0 => .nop | 1 => .cksum | 2 => .verify | 3 => .sendCmd | 4 => .tryDecode | 5 => .drain
        | 6 => .badOpLow 6#4 | 7 => .badOpLow 7#4
        | n => .badOpHigh (BitVec.ofNat 4 n)) ∧
    (∀ v : Word, v &&& 0x30F#32 = w &&& 0x30F#32 → decodeCtrl v = decodeCtrl w) ∧
    ctrlRows.filter (fun row => rowMatches row w) = [tableRow (decodeCtrl w)]

/-- Words written out from R102, R103, R116-R119, R198, R256 and vectors V-H2 to V-H5. -/
def Obligations.WordsOfTheSpecDecode : Prop :=
  decode .ctrl 0xFFFFFCF0#32 = .ok .nop ∧
  decode .ctrl 0x00000001#32 = .ok .cksum ∧
  decode .ctrl 0x00000003#32 = .ok .sendCmd ∧
  decode .ctrl 0x00000005#32 = .ok .drain ∧
  decode .ctrl 0x00000007#32 = .ok (.badOpLow 7#4) ∧
  decode .ctrl 0x00000009#32 = .ok (.badOpHigh 9#4) ∧
  decode .ctrl 0x0000010F#32 = .ok .abort ∧
  decode .ctrl 0x00000301#32 = .ok .srst ∧
  decode .statusWrite 0x00000100#32 = .ok .clrwi ∧
  decode .rxPoll 0x7E#32 = .ok .marker ∧
  decode .rxPoll 0x7D#32 = .ok (.unexpected 0x7D#8) ∧
  decode .rxFrame 0x7D#32 = .ok .esc ∧
  decode .rxFrame 0x7E#32 = .ok (.lit 0x7E#8) ∧
  decode .rxEscaped 0x5E#32 = .ok (.escd 0x5E#8) ∧
  decode .rxStoprd 0x7D#32 = .ok (.stopb 0x7D#8) ∧
  decode (.hdrByte2 0x50#8) 0x50#32 = .ok (.stop 0x50#8)

/-- R109, R110 (property V-E1): un-escaping undoes the device's escaping, for every byte sequence. -/
def Obligations.UnescapeUndoesEscape : Prop :=
  ∀ bs : List Byte, unescapeBytes (escapeBytes bs) = some bs

/-! ## The step -/

/-- A step runs the instruction it presents: a CTRL write, a STATUS write, or a raw byte the engine takes. -/
def Obligations.StepRunsThePresentedInstruction : Prop :=
  (∀ s i t, fetch s = .run i t → step s = exec i t) ∧
  (∀ s w rest, s.script = .host 0x000#12 ⟨4, .write w⟩ :: rest →
    step s = exec (decodeCtrl w) { s with script := rest, resp := some ⟨false, 0⟩ }) ∧
  (∀ s w rest i, s.script = .host 0x004#12 ⟨4, .write w⟩ :: rest → decode .statusWrite w = .ok i →
    step s = exec i { s with script := rest, resp := some ⟨false, 0⟩ }) ∧
  (∀ s ready up rest r q i, s.script = .engine ready up :: rest → s.rx = r :: q →
    (s.phase = .poll ∨ s.phase = .hdr ∨ s.phase = .pay ∨ s.phase = .stoprd) →
    decode (tokenOf s r).1 (tokenOf s r).2 = .ok i →
    step s = exec i { s with script := rest, rx := q })

/-- R116-R119, R198: which token a raw byte is, by phase, eng.esc and eng.hcnt. -/
def Obligations.RawByteIsTheTokenOfItsPhase : Prop :=
  ∀ (s : State) (ready up : Bool) (rest : List Event) (r : Byte) (q : List Byte),
    s.script = .engine ready up :: rest → s.rx = r :: q →
    (s.phase = .poll → r = 0x7E#8 → fetch s = .run .marker { s with script := rest, rx := q }) ∧
    (s.phase = .poll → r ≠ 0x7E#8 → fetch s = .run (.unexpected r) { s with script := rest, rx := q }) ∧
    (s.phase = .stoprd → fetch s = .run (.stopb r) { s with script := rest, rx := q }) ∧
    (s.phase = .hdr ∨ s.phase = .pay → s.esc = false → r = 0x7D#8 →
      fetch s = .run .esc { s with script := rest, rx := q }) ∧
    (s.phase = .hdr ∨ s.phase = .pay → s.esc = false → r ≠ 0x7D#8 →
      ¬(s.phase = .hdr ∧ s.hcnt = 2 ∧ r = s.stopCode) →
      fetch s = .run (.lit r) { s with script := rest, rx := q }) ∧
    (s.phase = .hdr ∨ s.phase = .pay → s.esc = true →
      ¬(s.phase = .hdr ∧ s.hcnt = 2 ∧ r ||| 0x20#8 = s.stopCode) →
      fetch s = .run (.escd r) { s with script := rest, rx := q }) ∧
    (s.phase = .hdr → s.hcnt = 2 → s.esc = false → r ≠ 0x7D#8 → r = s.stopCode →
      fetch s = .run (.stop r) { s with script := rest, rx := q }) ∧
    (s.phase = .hdr → s.hcnt = 2 → s.esc = true → r ||| 0x20#8 = s.stopCode →
      fetch s = .run (.stop (r ||| 0x20#8)) { s with script := rest, rx := q })

/-- Logs 11, 12: a table word placed by withFetchWord is the instruction the very next step runs. -/
def Obligations.PlacedTableWordIsRunNext : Prop :=
  ∀ (s : State) (nbits w : Nat) (i : Instr), decodeTableWord nbits w = some i →
    ∃ t, fetch (s.withFetchWord nbits w) = .run i t ∧ step (s.withFetchWord nbits w) = exec i t

/-- Logs 1, 14: no step of any agent stops the machine. -/
def Obligations.EveryStepHasANextState : Prop := ∀ s : State, ∃ t, step s = .next t

/-! ## Control operations -/

/-- R250: a CTRL write does exactly one of SRST, ABORT, NOP, a drop, a start; `answer` is the bus answer. -/
def Obligations.CtrlWriteDoesExactlyOneThing : Prop :=
  ∀ (s : State) (v : Word) (rest : List Event), s.script = .host 0x000#12 ⟨4, .write v⟩ :: rest →
    ∃ answer, (v.getLsbD 9 = true → step s = exec .srst { s with script := rest, resp := answer }) ∧
    (v.getLsbD 9 = false → v.getLsbD 8 = true →
      step s = exec .abort { s with script := rest, resp := answer }) ∧
    (v.getLsbD 9 = false → v.getLsbD 8 = false → v.extractLsb' 0 4 = 0#4 →
      step s = .next { s with script := rest, resp := answer }) ∧
    (v.getLsbD 9 = false → v.getLsbD 8 = false → v.extractLsb' 0 4 ≠ 0#4 → s.busy = true →
      step s = .next { s with script := rest, resp := answer, wrIgnored := true }) ∧
    (v.getLsbD 9 = false → v.getLsbD 8 = false → v.extractLsb' 0 4 ≠ 0#4 → s.busy = false →
      step s = exec (decodeOp (v.extractLsb' 0 4)) { s with script := rest, resp := answer })

/-- R251, R161: what each start does when no operation runs. CKSUM, VERIFY, SEND_CMD, TRY_DECODE, DRAIN with legal
arguments run; with illegal ones they finish BAD_ARG; the reserved codes finish BAD_OP. -/
def Obligations.OperationStartWhenIdle : Prop :=
  ∀ s : State, s.busy = false →
    (s.txLen.toNat ≤ 512 → exec .cksum s = .next
      { s with done := false, result := .ok, busy := true, op := .cksum, phase := .ck }) ∧
    (2 ≤ s.txLen.toNat → s.txLen.toNat ≤ 512 → exec .verify s = .next
      { s with done := false, result := .ok, busy := true, op := .verify, phase := .ck }) ∧
    (s.txLen.toNat ≤ 512 → s.respLen.toNat ≤ 508 → exec .sendCmd s = .next
      { s with
        done := false, result := .ok, busy := true, op := .sendCmd, phase := .tx
        txck := cksum16 (s.cmd :: txBytes s s.txLen.toNat)
        txpkt := hi8 (cksum16 (s.cmd :: txBytes s s.txLen.toNat)) :: lo8 (cksum16 (s.cmd :: txBytes s s.txLen.toNat))
          :: s.cmd :: txBytes s s.txLen.toNat
        tidx := 0, rneed := 4 + s.respLen.toNat, echo := 0, respField := 0, rxCnt := 0 }) ∧
    exec .tryDecode s = .next
      { s with done := false, result := .ok, busy := true, op := .tryDecode, phase := .poll, nframes := 0 } ∧
    exec .drain s = .next
      { s with done := false, result := .ok, busy := true, op := .drain, phase := .poll, nframes := 0 } ∧
    (512 < s.txLen.toNat → exec .cksum s = .next
      { s with done := true, result := .badArg, busy := false, op := .none, phase := .idle }) ∧
    (s.txLen.toNat < 2 ∨ 512 < s.txLen.toNat → exec .verify s = .next
      { s with done := true, result := .badArg, busy := false, op := .none, phase := .idle }) ∧
    (512 < s.txLen.toNat ∨ 508 < s.respLen.toNat → exec .sendCmd s = .next
      { s with done := true, result := .badArg, busy := false, op := .none, phase := .idle }) ∧
    (∀ op : BitVec 4, op = 6#4 ∨ op = 7#4 → exec (.badOpLow op) s = .next
      { s with done := true, result := .badOp, busy := false, op := .none, phase := .idle }) ∧
    (∀ op : BitVec 4, 8 ≤ op.toNat → exec (.badOpHigh op) s = .next
      { s with done := true, result := .badOp, busy := false, op := .none, phase := .idle })

/-- R78, R250: a start while an operation runs, a reserved code included, only sets WR_IGNORED. -/
def Obligations.StartWhileBusyIsDropped : Prop :=
  ∀ (s : State) (i : Instr), s.busy = true →
    (i = .cksum ∨ i = .verify ∨ i = .sendCmd ∨ i = .tryDecode ∨ i = .drain ∨
      (∃ op, i = .badOpLow op) ∨ (∃ op, i = .badOpHigh op)) →
    exec i s = .next { s with wrIgnored := true }

/-- R252, R254, R256: NOP changes nothing; ABORT ends a running operation, keeps what it wrote, and does nothing when
idle; CLRWI clears WR_IGNORED, busy or not. -/
def Obligations.NopAbortAndClearIgnored : Prop :=
  ∀ s : State,
    exec .nop s = .next s ∧
    (s.busy = true → exec .abort s = .next
      { s with esc := false, result := .aborted, busy := false, done := true, phase := .idle, op := .none }) ∧
    (s.busy = false → exec .abort s = .next s) ∧
    exec .clrwi s = .next { s with wrIgnored := false }

/-- R256: a STATUS write changes WR_IGNORED alone: cleared by bit 8, otherwise kept, busy or not. -/
def Obligations.StatusWriteChangesOnlyWrIgnored : Prop :=
  ∀ (s : State) (v : Word) (rest : List Event), s.script = .host 0x004#12 ⟨4, .write v⟩ :: rest →
    ∃ answer, step s = .next
      { s with
        script := rest, resp := answer
        wrIgnored := if v.getLsbD 8 then false else s.wrIgnored }

/-- R47, R301: every register at reset, before any step. -/
def Obligations.ResetHasTheSpecsValues : Prop := State.reset.AtResetValues

/-- R255, R302, R303: SRST in any state resets everything but TXBUF and RXBUF, and does not touch the transport. -/
def Obligations.SoftResetKeepsBuffersAndTransport : Prop :=
  ∀ s : State, ∃ t, exec .srst s = .next t ∧ t.AtResetValues ∧
    (∀ a, readByte t a = readByte s a) ∧ t.rx = s.rx ∧ t.tx = s.tx ∧ t.params = s.params

/-- R301, R303: power-on reset in any state resets everything and does not touch the transport. -/
def Obligations.PowerOnResetKeepsTransport : Prop :=
  ∀ (s : State) (rest : List Event), s.script = .powerOn :: rest →
    ∃ t, step s = .next t ∧ t.AtResetValues ∧ t.rx = s.rx ∧ t.tx = s.tx ∧ t.params = s.params ∧ t.script = rest

/-! ## The register window -/

/-- R72: an access that is not four bytes at a multiple of 4 is a bus error, with data 0 for a read, and does nothing
else. -/
def Obligations.IllegalAccessIsABusErrorOnly : Prop :=
  ∀ (s : State) (a : Offset) (rq : Request) (rest : List Event), s.script = .host a rq :: rest →
    rq.size ≠ 4 ∨ a.toNat % 4 ≠ 0 →
    ∃ d, (rq.access = .read → d = 0) ∧ step s = .next { s with script := rest, resp := some ⟨true, d⟩ }

/-- R21-R33, R39, R41, R73, R76: what a legal read answers at each register, the layouts written as sums, and at each
word of TXBUF and RXBUF, byte j in bits 8j+7:8j. -/
def Obligations.ReadAnswersTheRegisterLayout : Prop :=
  ∀ (s : State) (a : Offset) (rest : List Event), s.script = .host a ⟨4, .read⟩ :: rest → a.toNat % 4 = 0 →
    ∃ t d, step s = .next t ∧ t.resp = some ⟨false, d⟩ ∧
    (a.toNat = 0x000 → d = 0) ∧
    (a.toNat = 0x004 → d.toNat = s.busy.toNat + 2 * s.done.toNat + 16 * s.result.code.toNat + 256 * s.wrIgnored.toNat) ∧
    (a.toNat = 0x008 → d.toNat = s.toEn.toNat + 256 * s.stopCode.toNat) ∧
    (a.toNat = 0x00C → d.toNat = s.cmd.toNat) ∧
    (a.toNat = 0x010 → d.toNat = s.txLen.toNat) ∧
    (a.toNat = 0x014 → d.toNat = s.respLen.toNat) ∧
    (a.toNat = 0x018 → d.toNat = s.ckCalc.toNat + 65536 * s.ckClaim.toNat) ∧
    (a.toNat = 0x01C → d.toNat = s.txck.toNat) ∧
    (a.toNat = 0x020 → d.toNat = s.echo.toNat + 256 * s.respField.toNat + 65536 * (s.rxCnt % 1024)) ∧
    (a.toNat = 0x024 → d.toNat =
      s.hdr[0].toNat + 256 * s.hdr[1].toNat + 65536 * s.hdr[2].toNat + 16777216 * s.hdr[3].toNat) ∧
    (a.toNat = 0x028 → d.toNat =
      s.hdr[4].toNat + 256 * s.hdr[5].toNat + 65536 * s.hdr[6].toNat + 16777216 * s.hdr[7].toNat) ∧
    (a.toNat = 0x02C → d.toNat =
      s.aux1.toNat + 256 * s.aux2.toNat + 65536 * (s.hcnt % 16) + 16777216 * (s.plen % 256)) ∧
    (a.toNat = 0x030 → d = s.nframes) ∧
    (a.toNat = 0x034 → d = s.dropCnt) ∧
    (a.toNat = 0x038 → d = s.unexpCnt) ∧
    (a.toNat = 0x03C → d.toNat = s.sample.length % 65536 + 65536 * (s.fdesc.length % 65536)) ∧
    (0x200 ≤ a.toNat ∧ a.toNat < 0x600 → d.toNat =
      (readByte s a.toNat).toNat + 256 * (readByte s (a.toNat + 1)).toNat +
        65536 * (readByte s (a.toNat + 2)).toNat + 16777216 * (readByte s (a.toNat + 3)).toNat) ∧
    (0x048 ≤ a.toNat ∧ a.toNat < 0x200 ∨ 0x600 ≤ a.toNat → d = 0)

/-- R42, R43, R77: a read of SAMPLE or FDESC pops the oldest entry and answers it with VALID, or answers 0 and pops
nothing; every other legal read changes no state but the answer. -/
def Obligations.ReadsPopOnlyTheFifos : Prop :=
  ∀ (s : State) (a : Offset) (rest : List Event), s.script = .host a ⟨4, .read⟩ :: rest → a.toNat % 4 = 0 →
    (a.toNat = 0x040 → s.sample = [] → step s = .next { s with script := rest, resp := some ⟨false, 0⟩ }) ∧
    (∀ c cs, a.toNat = 0x040 → s.sample = c :: cs →
      step s = .next { s with script := rest, sample := cs, resp := some ⟨false, 0x80000000#32 ||| zext32 c⟩ }) ∧
    (a.toNat = 0x044 → s.fdesc = [] → step s = .next { s with script := rest, resp := some ⟨false, 0⟩ }) ∧
    (∀ d ds, a.toNat = 0x044 → s.fdesc = d :: ds → ∃ v : Word,
      step s = .next { s with script := rest, fdesc := ds, resp := some ⟨false, v⟩ } ∧
      v.toNat = d.chanRaw.toNat + 256 * d.nsamp.toNat + 65536 * ((d.chanRaw.toNat + 255) % 256) +
        16777216 * (if d.kind = .data then 1 else 2) + 2147483648) ∧
    (a.toNat ≠ 0x040 → a.toNat ≠ 0x044 →
      ∃ v, step s = .next { s with script := rest, resp := some ⟨false, v⟩ })

/-- R24-R27, R73: an idle write of CFG, CMD_ID, TX_LEN or RESP_LEN changes that register alone, and a read step then
answers its field bits of the value written and 0 elsewhere. The data of the write's own answer is left open (log 7). -/
def Obligations.WrittenRegisterReadsItsFieldBits : Prop :=
  ∀ (s : State) (v : Word) (a : Offset) (mask : Word) (rest : List Event), s.busy = false →
    s.script = .host a ⟨4, .write v⟩ :: rest →
    (a = 0x008#12 ∧ mask = 0xFF01#32) ∨ (a = 0x00C#12 ∧ mask = 0xFF#32) ∨
      (a = 0x010#12 ∧ mask = 0x3FF#32) ∨ (a = 0x014#12 ∧ mask = 0x3FF#32) →
    ∃ t d, step s = .next t ∧
      (∀ later, step { t with script := .host a ⟨4, .read⟩ :: later } =
        .next { t with script := later, resp := some ⟨false, v &&& mask⟩ }) ∧
      t = { s with
            script := rest, resp := some ⟨false, d⟩
            toEn := if a = 0x008#12 then t.toEn else s.toEn
            stopCode := if a = 0x008#12 then t.stopCode else s.stopCode
            cmd := if a = 0x00C#12 then t.cmd else s.cmd
            txLen := if a = 0x010#12 then t.txLen else s.txLen
            respLen := if a = 0x014#12 then t.respLen else s.respLen }

/-- R39, R76: an idle write of a TXBUF word puts bits 8j+7:8j in byte j of it and changes no other byte of TXBUF or
RXBUF, nor any other state; a read step of that offset then answers the word written. The data of the write's own
answer is left open (log 7). -/
def Obligations.TxbufWordIsLittleEndian : Prop :=
  ∀ (s : State) (v : Word) (a : Offset) (rest : List Event), Memory.wf s.mem → s.busy = false →
    s.script = .host a ⟨4, .write v⟩ :: rest → 0x200 ≤ a.toNat → a.toNat < 0x400 → a.toNat % 4 = 0 →
    ∃ t d, step s = .next t ∧
      (∀ j, j < 4 → readByte t (a.toNat + j) = v.extractLsb' (8 * j) 8) ∧
      (∀ k, k < a.toNat ∨ a.toNat + 4 ≤ k → readByte t k = readByte s k) ∧
      (∀ later, step { t with script := .host a ⟨4, .read⟩ :: later } =
        .next { t with script := later, resp := some ⟨false, v⟩ }) ∧
      t = { s with script := rest, resp := some ⟨false, d⟩, mem := t.mem }

/-- R78: while an operation runs a write of CFG, CMD_ID, TX_LEN, RESP_LEN or TXBUF only sets WR_IGNORED. The data of
the write's own answer is left open (log 7). -/
def Obligations.WriteWhileBusyIsDropped : Prop :=
  ∀ (s : State) (v : Word) (a : Offset) (rest : List Event), s.busy = true →
    s.script = .host a ⟨4, .write v⟩ :: rest →
    a = 0x008#12 ∨ a = 0x00C#12 ∨ a = 0x010#12 ∨ a = 0x014#12 ∨
      (0x200 ≤ a.toNat ∧ a.toNat < 0x400 ∧ a.toNat % 4 = 0) →
    ∃ d, step s = .next { s with script := rest, resp := some ⟨false, d⟩, wrIgnored := true }

/-- R73, R79: a write of a read-only or POP register, of RXBUF or of a reserved offset does nothing, busy or not. -/
def Obligations.WriteOfReadOnlyOffsetIsIgnored : Prop :=
  ∀ (s : State) (v : Word) (a : Offset) (rest : List Event),
    s.script = .host a ⟨4, .write v⟩ :: rest → a.toNat % 4 = 0 →
    (0x018 ≤ a.toNat ∧ a.toNat < 0x200) ∨ 0x400 ≤ a.toNat →
    ∃ d, step s = .next { s with script := rest, resp := some ⟨false, d⟩ }

/-- R71: an access by bus address is the access at its offset from BASE; outside the window it is not the engine's. -/
def Obligations.BusAddressIsBasePlusOffset : Prop :=
  ∀ (s : State) (addr : Nat) (rq : Request) (rest : List Event), s.script = .bus addr rq :: rest →
    (∀ a : Offset, addr = s.params.base + a.toNat → step s = step { s with script := .host a rq :: rest }) ∧
    (addr < s.params.base ∨ s.params.base + 4096 ≤ addr → step s = .next { s with script := rest })

/-! ## Checksum unit -/

/-- R140: the checksum is the byte sum modulo 65536, 0 for no bytes, additive, and blind to order. -/
def Obligations.ChecksumIsTheByteSumMod65536 : Prop :=
  (∀ bs : List Byte, (cksum16 bs).toNat = (bs.map BitVec.toNat).sum % 65536) ∧
  cksum16 [] = 0 ∧
  (∀ xs ys : List Byte, cksum16 (xs ++ ys) = cksum16 xs + cksum16 ys) ∧
  (∀ xs ys : List Byte, xs.Perm ys → cksum16 xs = cksum16 ys)

/-- R141, R75: a 16-bit value sent high byte first is read back. -/
def Obligations.ChecksumBytesReadBack : Prop :=
  (∀ c : Half, be16 (hi8 c) (lo8 c) = c) ∧
  (∀ hi lo : Byte, (be16 hi lo).toNat = hi.toNat * 256 + lo.toNat) ∧
  (∀ c : Half, (hi8 c).toNat = c.toNat / 256 ∧ (lo8 c).toNat = c.toNat % 256)

/-- R143: the engine step of CKSUM. -/
def Obligations.CksumStepWritesTheChecksum : Prop :=
  ∀ (s : State) (ready up : Bool) (rest : List Event), s.script = .engine ready up :: rest →
    s.phase = .ck → s.op = .cksum →
    step s = .next
      { s with
        script := rest, ckCalc := cksum16 (txBytes s s.txLen.toNat), ckClaim := 0
        result := .ok, busy := false, done := true, phase := .idle, op := .none }

/-- R144: the engine step of VERIFY. -/
def Obligations.VerifyStepComparesTheClaim : Prop :=
  ∀ (s : State) (ready up : Bool) (rest : List Event), s.script = .engine ready up :: rest →
    s.phase = .ck → s.op = .verify →
    step s = .next
      { s with
        script := rest
        ckClaim := be16 (txbuf s 0) (txbuf s 1)
        ckCalc := cksum16 ((txBytes s s.txLen.toNat).drop 2)
        result := if cksum16 ((txBytes s s.txLen.toNat).drop 2) = be16 (txbuf s 0) (txbuf s 1) then .ok
          else .checksumMismatch
        busy := false, done := true, phase := .idle, op := .none }

/-- R145: VERIFY of a checksum followed by the bytes it covers finishes OK, for every sequence that fits. -/
def Obligations.VerifyOfChecksumFinishesOk : Prop :=
  ∀ (s : State) (bs : List Byte) (ready up : Bool) (rest : List Event), s.busy = false → bs.length ≤ 510 →
    s.txLen.toNat = bs.length + 2 →
    txBytes s (bs.length + 2) = hi8 (cksum16 bs) :: lo8 (cksum16 bs) :: bs →
    s.script = .host 0x000#12 ⟨4, .write 2#32⟩ :: .engine ready up :: rest →
    ∃ t, Host.Core.run Sys2Proof.core 2 s = .next t ∧ t.busy = false ∧ t.done = true ∧ t.result = .ok ∧
      t.ckCalc = cksum16 bs ∧ t.ckClaim = cksum16 bs ∧ (∀ a, readByte t a = readByte s a) ∧ t.script = rest

/-! ## Command framer -/

/-- R163: phase TX sends one byte of the packet at a turn at which the transport accepts, and waits otherwise. -/
def Obligations.TransmitStepSendsOneByte : Prop :=
  ∀ (s : State) (ready up : Bool) (rest : List Event), s.script = .engine ready up :: rest →
    s.phase = .tx → (h : s.tidx < s.txpkt.length) →
    (ready = true → step s = .next
      { s with
        script := rest, tx := s.tx ++ [s.txpkt[s.tidx]], tidx := s.tidx + 1
        phase := if s.tidx + 1 = s.txpkt.length then .rx else .tx }) ∧
    (ready = false → step s = .next { s with script := rest })

/-- R164: phase RX stores the next response byte in RXBUF, counts it, and reports bytes 2 and 3. -/
def Obligations.ReceiveStepStoresOneByte : Prop :=
  ∀ (s : State) (ready up : Bool) (rest : List Event) (r : Byte) (q : List Byte),
    s.script = .engine ready up :: rest → s.phase = .rx → s.rx = r :: q → s.rxCnt < 512 → Memory.wf s.mem →
    ∃ t, step s = .next t ∧
      rxbuf t s.rxCnt = r ∧ (∀ a, a ≠ 0x400 + s.rxCnt → readByte t a = readByte s a) ∧
      t = { s with
            script := rest, rx := q, mem := t.mem, rxCnt := s.rxCnt + 1
            echo := if s.rxCnt = 2 then r else s.echo
            respField := if s.rxCnt = 3 then r else s.respField
            phase := if s.rxCnt + 1 = s.rneed then .rchk else .rx }

/-- R166-R169: phase RCHK tests the checksum over bytes 2 on, then the length field, never the echo. -/
def Obligations.ResponseCheckTestsChecksumThenLength : Prop :=
  ∀ (s : State) (ready up : Bool) (rest : List Event), s.script = .engine ready up :: rest → s.phase = .rchk →
    ∃ r, step s = .next
      { s with
        script := rest
        ckClaim := be16 (rxbuf s 0) (rxbuf s 1), ckCalc := cksum16 (rxBytes s 2 (s.rneed - 2))
        result := r, busy := false, done := true, phase := .idle, op := .none } ∧
    (cksum16 (rxBytes s 2 (s.rneed - 2)) ≠ be16 (rxbuf s 0) (rxbuf s 1) → r = .checksumMismatch) ∧
    (cksum16 (rxBytes s 2 (s.rneed - 2)) = be16 (rxbuf s 0) (rxbuf s 1) →
      (rxbuf s 3).toNat ≠ s.respLen.toNat → r = .lengthMismatch) ∧
    (cksum16 (rxBytes s 2 (s.rneed - 2)) = be16 (rxbuf s 0) (rxbuf s 1) →
      (rxbuf s 3).toNat = s.respLen.toNat → r = .ok)

/-- R11, R165, R207, R281: a read that finds no byte times out only with CFG.TO_EN = 1 and when the transport lets
it; otherwise it waits. The partial packet or frame is kept as it stands, CKREG and DROP_CNT included. -/
def Obligations.ReadTimesOutOnlyWhenEnabled : Prop :=
  ∀ (s : State) (ready up : Bool) (rest : List Event), s.script = .engine ready up :: rest →
    (s.phase = .rx ∨ s.phase = .hdr ∨ s.phase = .pay ∨ s.phase = .stoprd) → s.rx = [] →
    (s.toEn = true → up = true → step s = .next
      { s with script := rest, result := .transportTimeout, busy := false, done := true, phase := .idle, op := .none }) ∧
    (s.toEn = false ∨ up = false → step s = .next { s with script := rest })

/-- R160-R168: a whole exchange, from the CTRL write to the result, whatever the device answers. That RXBUF at and
above the response stays as it was follows R39, not U1 (log 18). -/
def Obligations.CommandExchangeRunsToItsResult : Prop :=
  ∀ (s : State) (w : Word) (resp more : List Byte) (sends reads : List (Bool × Bool)) (rest : List Event),
    Memory.wf s.mem → s.busy = false → s.txLen.toNat ≤ 512 → s.respLen.toNat ≤ 508 → decodeCtrl w = .sendCmd →
    (h : resp.length = 4 + s.respLen.toNat) → s.rx = resp ++ more →
    sends.length = 3 + s.txLen.toNat → (∀ c ∈ sends, c.1 = true) → reads.length = resp.length + 1 →
    s.script = .host 0x000#12 ⟨4, .write w⟩ :: engineTurns sends ++ engineTurns reads ++ rest →
    ∃ t, Host.Core.run Sys2Proof.core (1 + sends.length + reads.length) s = .next t ∧
      t.tx = s.tx ++ commandPacket s.cmd (txBytes s s.txLen.toNat) ∧ t.rx = more ∧ t.script = rest ∧
      (∀ i, (hi : i < resp.length) → rxbuf t i = resp[i]) ∧
      (∀ a, a < 0x400 ∨ 0x400 + resp.length ≤ a → readByte t a = readByte s a) ∧
      t.rxCnt = resp.length ∧ t.echo = resp[2] ∧ t.respField = resp[3] ∧
      t.ckClaim = be16 resp[0] resp[1] ∧ t.ckCalc = cksum16 (resp.drop 2) ∧
      t.busy = false ∧ t.done = true ∧
      t.result = (if cksum16 (resp.drop 2) ≠ be16 resp[0] resp[1] then .checksumMismatch
        else if resp[3].toNat ≠ s.respLen.toNat then .lengthMismatch else .ok)

/-! ## Stream decoder -/

/-- R193: a poll that finds no byte ends TRY_DECODE with NO_DATA and DRAIN with OK. -/
def Obligations.EmptyPollEndsTheOperation : Prop :=
  ∀ (s : State) (ready up : Bool) (rest : List Event), s.script = .engine ready up :: rest →
    s.phase = .poll → s.rx = [] → s.op = .tryDecode ∨ s.op = .drain →
    step s = .next
      { s with
        script := rest, result := if s.op = .tryDecode then .noData else .ok
        busy := false, done := true, phase := .idle, op := .none }

/-- R194: the marker resets the decoder for the frame. -/
def Obligations.MarkerStartsAFrame : Prop :=
  ∀ s : State, s.phase = .poll → exec .marker s = .next
    { s with hdr := Vector.replicate 8 0, hcnt := 0, plen := 0, pcnt := 0, scnt := 0, esc := false, phase := .hdr }

/-- R195: an unexpected byte is counted and shown; TRY_DECODE ends, DRAIN stays in POLL. In the engine's turn that
polls it the byte is consumed. -/
def Obligations.UnexpectedByteIsCounted : Prop :=
  ∀ (s : State) (b : Byte), s.phase = .poll → b ≠ 0x7E#8 →
    (s.op = .tryDecode → exec (.unexpected b) s = .next
      { s with
        unexpCnt := s.unexpCnt + 1, aux1 := b
        result := .unexpectedByte, busy := false, done := true, phase := .idle, op := .none }) ∧
    (s.op = .drain → exec (.unexpected b) s = .next { s with unexpCnt := s.unexpCnt + 1, aux1 := b, phase := .poll }) ∧
    (∀ ready up rest q, s.script = .engine ready up :: rest → s.rx = b :: q →
      (s.op = .tryDecode → step s = .next
        { s with
          script := rest, rx := q, unexpCnt := s.unexpCnt + 1, aux1 := b
          result := .unexpectedByte, busy := false, done := true, phase := .idle, op := .none }) ∧
      (s.op = .drain → step s = .next
        { s with script := rest, rx := q, unexpCnt := s.unexpCnt + 1, aux1 := b, phase := .poll }))

/-- R197: the escape byte gives no logical byte. -/
def Obligations.EscapeByteOnlySetsEsc : Prop :=
  ∀ s : State, s.phase = .hdr ∨ s.phase = .pay → s.esc = false → exec .esc s = .next { s with esc := true }

/-- R196-R198, R200: a logical header byte `b`, raw (LIT) or from an escape pair (ESCD of `r`, `b = r OR 0x20`), in
any state of phase HDR. -/
def Obligations.HeaderByteIsStoredAndTested : Prop :=
  ∀ (s : State) (i : Instr) (b : Byte), s.phase = .hdr → s.hcnt < 8 →
    (s.esc = false ∧ b ≠ 0x7D#8 ∧ i = .lit b) ∨ (s.esc = true ∧ ∃ r, i = .escd r ∧ b = r ||| 0x20#8) →
    (s.hcnt = 2 → b = s.stopCode → exec i s = .next
      { s with hdr := s.hdr.setIfInBounds 2 b, hcnt := 3, esc := false, scnt := 0, phase := .stoprd }) ∧
    (s.hcnt = 7 → ∀ plen, plen = s.hdr[3].toNat - 4 → exec i s = .next
      { s with
        hdr := s.hdr.setIfInBounds 7 b, hcnt := 8, esc := false, plen := plen, pcnt := 0
        phase := if plen = 0 then .check else .pay }) ∧
    (¬(s.hcnt = 2 ∧ b = s.stopCode) → s.hcnt ≠ 7 → exec i s = .next
      { s with hdr := s.hdr.setIfInBounds s.hcnt b, hcnt := s.hcnt + 1, esc := false })

/-- R198: STOP, run on the byte that is the third logical header byte and the stop code, raw or escaped; and it is
then what LIT and ESCD do with that byte. -/
def Obligations.StopAbandonsTheHeader : Prop :=
  ∀ (s : State) (b : Byte), s.phase = .hdr → s.hcnt = 2 → b = s.stopCode →
    exec (.stop b) s = .next
      { s with hdr := s.hdr.setIfInBounds 2 b, hcnt := 3, esc := false, scnt := 0, phase := .stoprd } ∧
    (s.esc = false → exec (.lit b) s = exec (.stop b) s) ∧
    (∀ r, s.esc = true → b = r ||| 0x20#8 → exec (.escd r) s = exec (.stop b) s)

/-- R199: the two raw bytes of a stop notification. -/
def Obligations.StopBytesAreTakenRaw : Prop :=
  ∀ (s : State) (r : Byte), s.phase = .stoprd →
    (s.scnt = 0 → exec (.stopb r) s = .next { s with aux1 := r, scnt := 1 }) ∧
    (s.scnt ≠ 0 → exec (.stopb r) s = .next { s with aux2 := r, kind := .stop, phase := .emit })

/-- R201: a logical payload byte `b`, raw or from an escape pair, is stored at PAYBUF[pcnt] and nowhere else. -/
def Obligations.PayloadByteIsStored : Prop :=
  ∀ (s : State) (i : Instr) (b : Byte), s.phase = .pay → s.pcnt < 251 → Memory.wf s.pay →
    (s.esc = false ∧ b ≠ 0x7D#8 ∧ i = .lit b) ∨ (s.esc = true ∧ ∃ r, i = .escd r ∧ b = r ||| 0x20#8) →
    ∃ t, exec i s = .next t ∧
      paybuf t s.pcnt = b ∧ (∀ k, k ≠ s.pcnt → paybuf t k = paybuf s k) ∧
      t = { s with
            pay := t.pay, pcnt := s.pcnt + 1, esc := false
            phase := if s.pcnt + 1 = s.plen then .check else .pay }

/-- R114, R202, R203: the frame check. A good frame waits in EMIT as a data frame; a bad one is counted and dropped
with nothing pushed: TRY_DECODE ends NO_DATA, DRAIN goes on in POLL. -/
def Obligations.FrameCheckAcceptsOrDrops : Prop :=
  ∀ (s : State) (ready up : Bool) (rest : List Event) (calc' claim' : Half),
    s.script = .engine ready up :: rest → s.phase = .check →
    calc' = cksum16 ([s.hdr[2], s.hdr[3], s.hdr[4], s.hdr[5], s.hdr[6], s.hdr[7]] ++ payBytes s s.plen) →
    claim' = be16 s.hdr[0] s.hdr[1] →
    (calc' = claim' → step s = .next
      { s with script := rest, ckCalc := calc', ckClaim := claim', kind := .data, phase := .emit }) ∧
    (calc' ≠ claim' → s.op = .tryDecode → step s = .next
      { s with
        script := rest, ckCalc := calc', ckClaim := claim', dropCnt := s.dropCnt + 1
        result := .noData, busy := false, done := true, phase := .idle, op := .none }) ∧
    (calc' ≠ claim' → s.op = .drain → step s = .next
      { s with script := rest, ckCalc := calc', ckClaim := claim', dropCnt := s.dropCnt + 1, phase := .poll })

/-- R204, R205: EMIT pushes all of a frame at once when both FIFOs have room, and otherwise pushes nothing and
waits. Sample code k is payload bytes 2k and 2k+1, high byte first. -/
def Obligations.EmitPushesAWholeFrameOrWaits : Prop :=
  ∀ (s : State) (ready up : Bool) (rest : List Event), s.script = .engine ready up :: rest → s.phase = .emit →
    (∀ n codes, n = s.plen / 2 → codes = (List.range n).map (fun k => be16 (paybuf s (2 * k)) (paybuf s (2 * k + 1))) →
      s.kind = .data → s.sample.length + n ≤ s.params.sampleDepth → s.fdesc.length + 1 ≤ s.params.fdescDepth →
      (s.op = .tryDecode → step s = .next
        { s with
          script := rest, sample := s.sample ++ codes, fdesc := s.fdesc ++ [⟨s.hdr[4], BitVec.ofNat 8 n, .data⟩]
          nframes := s.nframes + 1
          result := .frameDecoded, busy := false, done := true, phase := .idle, op := .none }) ∧
      (s.op = .drain → step s = .next
        { s with
          script := rest, sample := s.sample ++ codes, fdesc := s.fdesc ++ [⟨s.hdr[4], BitVec.ofNat 8 n, .data⟩]
          nframes := s.nframes + 1, phase := .poll })) ∧
    (s.kind = .stop → s.sample.length ≤ s.params.sampleDepth → s.fdesc.length + 1 ≤ s.params.fdescDepth →
      step s = .next
        { s with
          script := rest, fdesc := s.fdesc ++ [⟨s.aux2, 0, .stop⟩]
          result := .streamStopped, busy := false, done := true, phase := .idle, op := .none }) ∧
    (s.kind = .data → s.params.sampleDepth < s.sample.length + s.plen / 2 → step s = .next { s with script := rest }) ∧
    (s.params.fdescDepth < s.fdesc.length + 1 → step s = .next { s with script := rest })

/-- R194, R209: a frame sees nothing of the frame before it. Two states that differ only in what an earlier frame
left of HDR, the counts, eng.esc and eng.kind are alike after the marker but for eng.kind. -/
def Obligations.FrameForgetsEarlierFrames : Prop :=
  ∀ (s : State) (h : Vector Byte 8) (hc pl pc sc : Nat) (e : Bool) (k : Kind), s.phase = .poll →
    ∃ t, exec .marker s = .next t ∧
      exec .marker { s with hdr := h, hcnt := hc, plen := pl, pcnt := pc, scnt := sc, esc := e, kind := k } =
        .next { t with kind := k }

/-- R106-R109, R112, R191, R192, R194-R206: any data frame with a correct checksum, each logical byte raw or escaped
as the device likes, is decoded and delivered, and the engine takes exactly its bytes. -/
def Obligations.WellFormedFrameIsDelivered : Prop :=
  ∀ (s : State) (raw hdr payload more : List Byte) (turns : List (Bool × Bool)) (rest : List Event),
    Memory.wf s.pay → s.phase = .poll → s.op = .tryDecode ∨ s.op = .drain →
    (h8 : hdr.length = 8) → hdr[2] ≠ s.stopCode → payload.length = plenOf hdr[3] →
    cksum16 (hdr.drop 2 ++ payload) = be16 hdr[0] hdr[1] →
    unescapeBytes raw = some (hdr ++ payload) → s.rx = markerByte :: raw ++ more →
    s.sample.length + payload.length / 2 ≤ s.params.sampleDepth → s.fdesc.length + 1 ≤ s.params.fdescDepth →
    turns.length = raw.length + 3 → s.script = engineTurns turns ++ rest →
    ∃ t, Host.Core.run Sys2Proof.core (raw.length + 3) s = .next t ∧
      t.sample = s.sample ++ sampleCodes payload ∧
      t.fdesc = s.fdesc ++ [⟨hdr[4], BitVec.ofNat 8 (payload.length / 2), .data⟩] ∧
      t.hdr.toList = hdr ∧ t.nframes = s.nframes + 1 ∧ t.dropCnt = s.dropCnt ∧ t.unexpCnt = s.unexpCnt ∧
      t.mem = s.mem ∧ t.rx = more ∧ t.tx = s.tx ∧ t.script = rest ∧
      (s.op = .tryDecode → t.result = .frameDecoded ∧ t.done = true ∧ t.busy = false ∧ t.phase = .idle) ∧
      (s.op = .drain → t.op = .drain ∧ t.phase = .poll ∧ t.busy = s.busy)

/-- R106-R109, R191, R192, R203: a data frame whose checksum is wrong is dropped: counted, nothing pushed. -/
def Obligations.CorruptFrameIsDroppedAndCounted : Prop :=
  ∀ (s : State) (raw hdr payload more : List Byte) (turns : List (Bool × Bool)) (rest : List Event),
    Memory.wf s.pay → s.phase = .poll → s.op = .tryDecode ∨ s.op = .drain →
    (h8 : hdr.length = 8) → hdr[2] ≠ s.stopCode → payload.length = plenOf hdr[3] →
    cksum16 (hdr.drop 2 ++ payload) ≠ be16 hdr[0] hdr[1] →
    unescapeBytes raw = some (hdr ++ payload) → s.rx = markerByte :: raw ++ more →
    turns.length = raw.length + 2 → s.script = engineTurns turns ++ rest →
    ∃ t, Host.Core.run Sys2Proof.core (raw.length + 2) s = .next t ∧
      t.dropCnt = s.dropCnt + 1 ∧ t.sample = s.sample ∧ t.fdesc = s.fdesc ∧ t.nframes = s.nframes ∧
      t.mem = s.mem ∧ t.rx = more ∧ t.tx = s.tx ∧ t.script = rest ∧
      (s.op = .tryDecode → t.result = .noData ∧ t.done = true ∧ t.busy = false) ∧
      (s.op = .drain → t.op = .drain ∧ t.phase = .poll)

/-- R111, R198, R199, R204: a stop notification, its three header bytes raw or escaped and its two last bytes raw,
is delivered with its channel, and ends TRY_DECODE and DRAIN alike, whatever its first two bytes. -/
def Obligations.StopNotificationIsDelivered : Prop :=
  ∀ (s : State) (raw : List Byte) (c0 c1 echo chan : Byte) (more : List Byte) (turns : List (Bool × Bool))
    (rest : List Event),
    s.phase = .poll → unescapeBytes raw = some [c0, c1, s.stopCode] →
    s.rx = markerByte :: raw ++ echo :: chan :: more →
    s.sample.length ≤ s.params.sampleDepth → s.fdesc.length + 1 ≤ s.params.fdescDepth →
    turns.length = raw.length + 4 → s.script = engineTurns turns ++ rest →
    ∃ t, Host.Core.run Sys2Proof.core (raw.length + 4) s = .next t ∧
      t.fdesc = s.fdesc ++ [⟨chan, 0, .stop⟩] ∧ t.sample = s.sample ∧ t.aux1 = echo ∧ t.aux2 = chan ∧
      t.result = .streamStopped ∧ t.done = true ∧ t.busy = false ∧ t.nframes = s.nframes ∧
      t.ckCalc = s.ckCalc ∧ t.ckClaim = s.ckClaim ∧ t.mem = s.mem ∧ t.pay = s.pay ∧ t.dropCnt = s.dropCnt ∧
      t.unexpCnt = s.unexpCnt ∧ t.rx = more ∧ t.tx = s.tx ∧ t.script = rest

/-! ## Whole-machine rules -/

/-- The invariant of Safety.lean holds right after reset. -/
def Obligations.InvariantHoldsAtReset : Prop := State.reset.Inv

/-- R23, R30, R37-R44, R85, R108, R205: every step of every agent keeps the invariant. -/
def Obligations.EveryStepKeepsTheInvariant : Prop :=
  ∀ s t : State, s.Inv → step s = .next t → t.Inv

/-- Every instruction, run in whatever state, keeps the invariant. -/
def Obligations.EveryInstructionKeepsTheInvariant : Prop :=
  ∀ (i : Instr) (s t : State), s.Inv → exec i s = .next t → t.Inv

/-- R271: an operation that ends leaves one of its own results. -/
def Obligations.OperationEndsWithOneOfItsResults : Prop :=
  ∀ s t : State, s.Inv → s.op ≠ .none → step s = .next t → t.done = true → t.result ∈ resultsOf s.op

/-- R85: while an operation goes on, the registers and the TXBUF bytes it works on stay as they are. -/
def Obligations.RunningOperationsArgumentsAreFrozen : Prop :=
  ∀ s t : State, s.Inv → s.busy = true → step s = .next t → t.busy = true →
    t.op = s.op ∧ t.toEn = s.toEn ∧ t.stopCode = s.stopCode ∧ t.cmd = s.cmd ∧ t.txLen = s.txLen ∧
    t.respLen = s.respLen ∧ (∀ i, i < 512 → txbuf t i = txbuf s i)

/-- R77, R80, R204-R206: a step leaves the FIFOs as they are, pops one oldest entry of one of them, appends one
whole frame, or is a reset. -/
def Obligations.FifosPopOldestOrTakeAWholeFrame : Prop :=
  ∀ s t : State, step s = .next t →
    (t.sample = s.sample ∧ t.fdesc = s.fdesc) ∨
    (t.sample = s.sample.tail ∧ t.fdesc = s.fdesc) ∨
    (t.sample = s.sample ∧ t.fdesc = s.fdesc.tail) ∨
    (s.phase = .emit ∧ t.sample = s.sample ++ emitCodes s ∧ t.fdesc = s.fdesc ++ [emitDesc s] ∧
      t.sample.length ≤ s.params.sampleDepth ∧ t.fdesc.length ≤ s.params.fdescDepth) ∨
    (t.sample = [] ∧ t.fdesc = [] ∧ t.AtResetValues)

/-- R35, R36, R282: DROP_CNT and UNEXP_CNT go up by one, in CHECK and POLL only, or a reset clears them. -/
def Obligations.EventCountersOnlyCountOrReset : Prop :=
  ∀ s t : State, step s = .next t → t.AtResetValues ∨
    ((t.dropCnt = s.dropCnt ∨ (s.phase = .check ∧ t.dropCnt = s.dropCnt + 1)) ∧
     (t.unexpCnt = s.unexpCnt ∨ (s.phase = .poll ∧ t.unexpCnt = s.unexpCnt + 1)))

/-- R80, R87, R301: a step leaves both streams as they are, lets one byte arrive behind the others, takes the oldest
waiting byte at an engine turn of a phase that reads, or sends the next packet byte at an engine turn of phase TX at
which the transport accepts. An engine turn in IDLE changes nothing: it discards no byte and sends none. -/
def Obligations.StepMovesAtMostOneTransportByte : Prop :=
  (∀ s t : State, step s = .next t →
    (t.rx = s.rx ∧ t.tx = s.tx) ∨
    (∃ b rest, s.script = .deliver b :: rest ∧ t.rx = s.rx ++ [b] ∧ t.tx = s.tx) ∨
    (∃ ready up rest b, s.script = .engine ready up :: rest ∧
      (s.phase = .rx ∨ s.phase = .poll ∨ s.phase = .hdr ∨ s.phase = .stoprd ∨ s.phase = .pay) ∧
      s.rx = b :: t.rx ∧ t.tx = s.tx) ∨
    (∃ up rest b, s.script = .engine true up :: rest ∧ s.phase = .tx ∧
      s.txpkt[s.tidx]? = some b ∧ t.tx = s.tx ++ [b] ∧ t.rx = s.rx)) ∧
  (∀ (s : State) (ready up : Bool) (rest : List Event), s.script = .engine ready up :: rest → s.phase = .idle →
    step s = .next { s with script := rest })

/-- R39, R78, R79: a step that changes a byte of TXBUF is an aligned word write of that byte's offset, by a host or
through BASE, while no operation runs; a step that changes a byte of RXBUF is the engine's turn in phase RX, and the
byte is the next of the response. A power-on reset, which makes both unspecified, is apart (`boots`, log 4). -/
def Obligations.BuffersHaveOneWriterEach : Prop :=
  ∀ s t : State, s.Inv → step s = .next t → t.boots = s.boots →
    (∀ i, i < 512 → txbuf t i ≠ txbuf s i →
      s.busy = false ∧ ∃ (a : Offset) (v : Word) (rest : List Event),
        (s.script = .host a ⟨4, .write v⟩ :: rest ∨
          s.script = .bus (s.params.base + a.toNat) ⟨4, .write v⟩ :: rest) ∧
        a.toNat % 4 = 0 ∧ a.toNat ≤ 0x200 + i ∧ 0x200 + i < a.toNat + 4) ∧
    (∀ i, i < 512 → rxbuf t i ≠ rxbuf s i →
      s.phase = .rx ∧ i = s.rxCnt ∧ ∃ ready up rest, s.script = .engine ready up :: rest)

/-- R12, R82, R273: the step that clears BUSY leaves the engine idle with no operation; DONE is then set unless a
reset ended it. -/
def Obligations.BusyClearsOnlyByCompletionOrReset : Prop :=
  ∀ s t : State, s.Inv → step s = .next t → s.busy = true → t.busy = false →
    t.op = .none ∧ t.phase = .idle ∧ (t.done = true ∨ t.AtResetValues)

/-- R10, R108, R112, R113: the signed value of a sample code, and the payload length and channel index a header byte
gives, for every byte. -/
def Obligations.WireFieldArithmetic : Prop :=
  (∀ c : Half, sext16 c = c.toInt ∧ -32768 ≤ sext16 c ∧ sext16 c ≤ 32767) ∧
  (∀ b : Byte, (4 ≤ b.toNat → plenOf b = b.toNat - 4) ∧ (b.toNat < 4 → plenOf b = 0) ∧ plenOf b ≤ 251) ∧
  (∀ b : Byte, (chan0 b).toNat = (b.toNat + 255) % 256)
end

