-- ==== Sys2Proof/Laws/Invariant.lean ====
section
/-! SUPPORT. Which fields of State the invariant of Safety.lean does not look at. -/

namespace Sys2Proof.Machine

/-- WR_IGNORED, CKREG, TXCK, ECHO, LEN, AUX1, AUX2, the counters, the transport's streams, the bus answer and the
steps to come may take any value without the invariant failing. -/
theorem inv_of_free {s : State} (h : s.Inv) (wrIgnored : Bool) (ckCalc ckClaim txck : Half)
    (echo respField aux1 aux2 : Byte) (nframes dropCnt unexpCnt : Word) (rx tx : List Byte) (resp : Option Response)
    (script : List Event) :
    State.Inv { s with
      wrIgnored, ckCalc, ckClaim, txck, echo, respField, aux1, aux2, nframes, dropCnt, unexpCnt, rx, tx, resp, script } :=
  ⟨⟨h.op.1, h.op.2, h.op.3, h.op.4, h.op.5⟩,
    ⟨h.count.1, h.count.2, h.count.3, h.count.4, h.count.5, h.count.6, h.count.7, h.count.8, h.count.9, h.count.10⟩,
    ⟨h.fifo.1, h.fifo.2, h.fifo.3, h.fifo.4⟩, ⟨h.stores.1, h.stores.2, h.stores.3, h.stores.4⟩, h.phase⟩

/-- `finish` asks nothing of the operation or its phase. -/
theorem inv_finish {s : State} (r : Result) (hc : s.CountInv) (hf : s.FifoInv) (hs : s.StoresInv) : (finish r s).Inv :=
  ⟨⟨by simp [finish], by simp [finish, phasesOf], by simp [finish], rfl, by simp [finish]⟩,
    ⟨hc.1, hc.2, hc.3, hc.4, hc.5, hc.6, hc.7, hc.8, hc.9, hc.10⟩, ⟨hf.1, hf.2, hf.3, hf.4⟩, ⟨hs.1, hs.2, hs.3, hs.4⟩,
    trivial⟩

end Sys2Proof.Machine
end

