-- ==== Sys2Proof/Laws/State.lean ====
section
/-! SUPPORT. One lemma per field per named update of State, so that no proof unfolds a record update. -/

namespace Sys2Proof.Machine

variable (s : State)

@[simp] theorem finish_busy (r : Result) : (finish r s).busy = false := rfl
@[simp] theorem finish_done (r : Result) : (finish r s).done = true := rfl
@[simp] theorem finish_result (r : Result) : (finish r s).result = r := rfl
@[simp] theorem finish_wrIgnored (r : Result) : (finish r s).wrIgnored = s.wrIgnored := rfl
@[simp] theorem finish_toEn (r : Result) : (finish r s).toEn = s.toEn := rfl
@[simp] theorem finish_stopCode (r : Result) : (finish r s).stopCode = s.stopCode := rfl
@[simp] theorem finish_cmd (r : Result) : (finish r s).cmd = s.cmd := rfl
@[simp] theorem finish_txLen (r : Result) : (finish r s).txLen = s.txLen := rfl
@[simp] theorem finish_respLen (r : Result) : (finish r s).respLen = s.respLen := rfl
@[simp] theorem finish_ckCalc (r : Result) : (finish r s).ckCalc = s.ckCalc := rfl
@[simp] theorem finish_ckClaim (r : Result) : (finish r s).ckClaim = s.ckClaim := rfl
@[simp] theorem finish_txck (r : Result) : (finish r s).txck = s.txck := rfl
@[simp] theorem finish_echo (r : Result) : (finish r s).echo = s.echo := rfl
@[simp] theorem finish_respField (r : Result) : (finish r s).respField = s.respField := rfl
@[simp] theorem finish_rxCnt (r : Result) : (finish r s).rxCnt = s.rxCnt := rfl
@[simp] theorem finish_hdr (r : Result) : (finish r s).hdr = s.hdr := rfl
@[simp] theorem finish_aux1 (r : Result) : (finish r s).aux1 = s.aux1 := rfl
@[simp] theorem finish_aux2 (r : Result) : (finish r s).aux2 = s.aux2 := rfl
@[simp] theorem finish_nframes (r : Result) : (finish r s).nframes = s.nframes := rfl
@[simp] theorem finish_dropCnt (r : Result) : (finish r s).dropCnt = s.dropCnt := rfl
@[simp] theorem finish_unexpCnt (r : Result) : (finish r s).unexpCnt = s.unexpCnt := rfl
@[simp] theorem finish_mem (r : Result) : (finish r s).mem = s.mem := rfl
@[simp] theorem finish_pay (r : Result) : (finish r s).pay = s.pay := rfl
@[simp] theorem finish_sample (r : Result) : (finish r s).sample = s.sample := rfl
@[simp] theorem finish_fdesc (r : Result) : (finish r s).fdesc = s.fdesc := rfl
@[simp] theorem finish_op (r : Result) : (finish r s).op = .none := rfl
@[simp] theorem finish_phase (r : Result) : (finish r s).phase = .idle := rfl
@[simp] theorem finish_esc (r : Result) : (finish r s).esc = s.esc := rfl
@[simp] theorem finish_hcnt (r : Result) : (finish r s).hcnt = s.hcnt := rfl
@[simp] theorem finish_plen (r : Result) : (finish r s).plen = s.plen := rfl
@[simp] theorem finish_pcnt (r : Result) : (finish r s).pcnt = s.pcnt := rfl
@[simp] theorem finish_scnt (r : Result) : (finish r s).scnt = s.scnt := rfl
@[simp] theorem finish_kind (r : Result) : (finish r s).kind = s.kind := rfl
@[simp] theorem finish_txpkt (r : Result) : (finish r s).txpkt = s.txpkt := rfl
@[simp] theorem finish_tidx (r : Result) : (finish r s).tidx = s.tidx := rfl
@[simp] theorem finish_rneed (r : Result) : (finish r s).rneed = s.rneed := rfl
@[simp] theorem finish_rx (r : Result) : (finish r s).rx = s.rx := rfl
@[simp] theorem finish_tx (r : Result) : (finish r s).tx = s.tx := rfl
@[simp] theorem finish_params (r : Result) : (finish r s).params = s.params := rfl
@[simp] theorem finish_resp (r : Result) : (finish r s).resp = s.resp := rfl
@[simp] theorem finish_boots (r : Result) : (finish r s).boots = s.boots := rfl
@[simp] theorem finish_resets (r : Result) : (finish r s).resets = s.resets := rfl
@[simp] theorem finish_script (r : Result) : (finish r s).script = s.script := rfl

@[simp] theorem clearResult_busy : (clearResult s).busy = s.busy := rfl
@[simp] theorem clearResult_done : (clearResult s).done = false := rfl
@[simp] theorem clearResult_result : (clearResult s).result = .ok := rfl
@[simp] theorem clearResult_wrIgnored : (clearResult s).wrIgnored = s.wrIgnored := rfl
@[simp] theorem clearResult_toEn : (clearResult s).toEn = s.toEn := rfl
@[simp] theorem clearResult_stopCode : (clearResult s).stopCode = s.stopCode := rfl
@[simp] theorem clearResult_cmd : (clearResult s).cmd = s.cmd := rfl
@[simp] theorem clearResult_txLen : (clearResult s).txLen = s.txLen := rfl
@[simp] theorem clearResult_respLen : (clearResult s).respLen = s.respLen := rfl
@[simp] theorem clearResult_ckCalc : (clearResult s).ckCalc = s.ckCalc := rfl
@[simp] theorem clearResult_ckClaim : (clearResult s).ckClaim = s.ckClaim := rfl
@[simp] theorem clearResult_txck : (clearResult s).txck = s.txck := rfl
@[simp] theorem clearResult_echo : (clearResult s).echo = s.echo := rfl
@[simp] theorem clearResult_respField : (clearResult s).respField = s.respField := rfl
@[simp] theorem clearResult_rxCnt : (clearResult s).rxCnt = s.rxCnt := rfl
@[simp] theorem clearResult_hdr : (clearResult s).hdr = s.hdr := rfl
@[simp] theorem clearResult_aux1 : (clearResult s).aux1 = s.aux1 := rfl
@[simp] theorem clearResult_aux2 : (clearResult s).aux2 = s.aux2 := rfl
@[simp] theorem clearResult_nframes : (clearResult s).nframes = s.nframes := rfl
@[simp] theorem clearResult_dropCnt : (clearResult s).dropCnt = s.dropCnt := rfl
@[simp] theorem clearResult_unexpCnt : (clearResult s).unexpCnt = s.unexpCnt := rfl
@[simp] theorem clearResult_mem : (clearResult s).mem = s.mem := rfl
@[simp] theorem clearResult_pay : (clearResult s).pay = s.pay := rfl
@[simp] theorem clearResult_sample : (clearResult s).sample = s.sample := rfl
@[simp] theorem clearResult_fdesc : (clearResult s).fdesc = s.fdesc := rfl
@[simp] theorem clearResult_op : (clearResult s).op = s.op := rfl
@[simp] theorem clearResult_phase : (clearResult s).phase = s.phase := rfl
@[simp] theorem clearResult_esc : (clearResult s).esc = s.esc := rfl
@[simp] theorem clearResult_hcnt : (clearResult s).hcnt = s.hcnt := rfl
@[simp] theorem clearResult_plen : (clearResult s).plen = s.plen := rfl
@[simp] theorem clearResult_pcnt : (clearResult s).pcnt = s.pcnt := rfl
@[simp] theorem clearResult_scnt : (clearResult s).scnt = s.scnt := rfl
@[simp] theorem clearResult_kind : (clearResult s).kind = s.kind := rfl
@[simp] theorem clearResult_txpkt : (clearResult s).txpkt = s.txpkt := rfl
@[simp] theorem clearResult_tidx : (clearResult s).tidx = s.tidx := rfl
@[simp] theorem clearResult_rneed : (clearResult s).rneed = s.rneed := rfl
@[simp] theorem clearResult_rx : (clearResult s).rx = s.rx := rfl
@[simp] theorem clearResult_tx : (clearResult s).tx = s.tx := rfl
@[simp] theorem clearResult_params : (clearResult s).params = s.params := rfl
@[simp] theorem clearResult_resp : (clearResult s).resp = s.resp := rfl
@[simp] theorem clearResult_boots : (clearResult s).boots = s.boots := rfl
@[simp] theorem clearResult_resets : (clearResult s).resets = s.resets := rfl
@[simp] theorem clearResult_script : (clearResult s).script = s.script := rfl

@[simp] theorem ignoreWrite_busy : (ignoreWrite s).busy = s.busy := rfl
@[simp] theorem ignoreWrite_done : (ignoreWrite s).done = s.done := rfl
@[simp] theorem ignoreWrite_result : (ignoreWrite s).result = s.result := rfl
@[simp] theorem ignoreWrite_wrIgnored : (ignoreWrite s).wrIgnored = true := rfl
@[simp] theorem ignoreWrite_toEn : (ignoreWrite s).toEn = s.toEn := rfl
@[simp] theorem ignoreWrite_stopCode : (ignoreWrite s).stopCode = s.stopCode := rfl
@[simp] theorem ignoreWrite_cmd : (ignoreWrite s).cmd = s.cmd := rfl
@[simp] theorem ignoreWrite_txLen : (ignoreWrite s).txLen = s.txLen := rfl
@[simp] theorem ignoreWrite_respLen : (ignoreWrite s).respLen = s.respLen := rfl
@[simp] theorem ignoreWrite_ckCalc : (ignoreWrite s).ckCalc = s.ckCalc := rfl
@[simp] theorem ignoreWrite_ckClaim : (ignoreWrite s).ckClaim = s.ckClaim := rfl
@[simp] theorem ignoreWrite_txck : (ignoreWrite s).txck = s.txck := rfl
@[simp] theorem ignoreWrite_echo : (ignoreWrite s).echo = s.echo := rfl
@[simp] theorem ignoreWrite_respField : (ignoreWrite s).respField = s.respField := rfl
@[simp] theorem ignoreWrite_rxCnt : (ignoreWrite s).rxCnt = s.rxCnt := rfl
@[simp] theorem ignoreWrite_hdr : (ignoreWrite s).hdr = s.hdr := rfl
@[simp] theorem ignoreWrite_aux1 : (ignoreWrite s).aux1 = s.aux1 := rfl
@[simp] theorem ignoreWrite_aux2 : (ignoreWrite s).aux2 = s.aux2 := rfl
@[simp] theorem ignoreWrite_nframes : (ignoreWrite s).nframes = s.nframes := rfl
@[simp] theorem ignoreWrite_dropCnt : (ignoreWrite s).dropCnt = s.dropCnt := rfl
@[simp] theorem ignoreWrite_unexpCnt : (ignoreWrite s).unexpCnt = s.unexpCnt := rfl
@[simp] theorem ignoreWrite_mem : (ignoreWrite s).mem = s.mem := rfl
@[simp] theorem ignoreWrite_pay : (ignoreWrite s).pay = s.pay := rfl
@[simp] theorem ignoreWrite_sample : (ignoreWrite s).sample = s.sample := rfl
@[simp] theorem ignoreWrite_fdesc : (ignoreWrite s).fdesc = s.fdesc := rfl
@[simp] theorem ignoreWrite_op : (ignoreWrite s).op = s.op := rfl
@[simp] theorem ignoreWrite_phase : (ignoreWrite s).phase = s.phase := rfl
@[simp] theorem ignoreWrite_esc : (ignoreWrite s).esc = s.esc := rfl
@[simp] theorem ignoreWrite_hcnt : (ignoreWrite s).hcnt = s.hcnt := rfl
@[simp] theorem ignoreWrite_plen : (ignoreWrite s).plen = s.plen := rfl
@[simp] theorem ignoreWrite_pcnt : (ignoreWrite s).pcnt = s.pcnt := rfl
@[simp] theorem ignoreWrite_scnt : (ignoreWrite s).scnt = s.scnt := rfl
@[simp] theorem ignoreWrite_kind : (ignoreWrite s).kind = s.kind := rfl
@[simp] theorem ignoreWrite_txpkt : (ignoreWrite s).txpkt = s.txpkt := rfl
@[simp] theorem ignoreWrite_tidx : (ignoreWrite s).tidx = s.tidx := rfl
@[simp] theorem ignoreWrite_rneed : (ignoreWrite s).rneed = s.rneed := rfl
@[simp] theorem ignoreWrite_rx : (ignoreWrite s).rx = s.rx := rfl
@[simp] theorem ignoreWrite_tx : (ignoreWrite s).tx = s.tx := rfl
@[simp] theorem ignoreWrite_params : (ignoreWrite s).params = s.params := rfl
@[simp] theorem ignoreWrite_resp : (ignoreWrite s).resp = s.resp := rfl
@[simp] theorem ignoreWrite_boots : (ignoreWrite s).boots = s.boots := rfl
@[simp] theorem ignoreWrite_resets : (ignoreWrite s).resets = s.resets := rfl
@[simp] theorem ignoreWrite_script : (ignoreWrite s).script = s.script := rfl

@[simp] theorem clearIgnored_busy : (clearIgnored s).busy = s.busy := rfl
@[simp] theorem clearIgnored_done : (clearIgnored s).done = s.done := rfl
@[simp] theorem clearIgnored_result : (clearIgnored s).result = s.result := rfl
@[simp] theorem clearIgnored_wrIgnored : (clearIgnored s).wrIgnored = false := rfl
@[simp] theorem clearIgnored_toEn : (clearIgnored s).toEn = s.toEn := rfl
@[simp] theorem clearIgnored_stopCode : (clearIgnored s).stopCode = s.stopCode := rfl
@[simp] theorem clearIgnored_cmd : (clearIgnored s).cmd = s.cmd := rfl
@[simp] theorem clearIgnored_txLen : (clearIgnored s).txLen = s.txLen := rfl
@[simp] theorem clearIgnored_respLen : (clearIgnored s).respLen = s.respLen := rfl
@[simp] theorem clearIgnored_ckCalc : (clearIgnored s).ckCalc = s.ckCalc := rfl
@[simp] theorem clearIgnored_ckClaim : (clearIgnored s).ckClaim = s.ckClaim := rfl
@[simp] theorem clearIgnored_txck : (clearIgnored s).txck = s.txck := rfl
@[simp] theorem clearIgnored_echo : (clearIgnored s).echo = s.echo := rfl
@[simp] theorem clearIgnored_respField : (clearIgnored s).respField = s.respField := rfl
@[simp] theorem clearIgnored_rxCnt : (clearIgnored s).rxCnt = s.rxCnt := rfl
@[simp] theorem clearIgnored_hdr : (clearIgnored s).hdr = s.hdr := rfl
@[simp] theorem clearIgnored_aux1 : (clearIgnored s).aux1 = s.aux1 := rfl
@[simp] theorem clearIgnored_aux2 : (clearIgnored s).aux2 = s.aux2 := rfl
@[simp] theorem clearIgnored_nframes : (clearIgnored s).nframes = s.nframes := rfl
@[simp] theorem clearIgnored_dropCnt : (clearIgnored s).dropCnt = s.dropCnt := rfl
@[simp] theorem clearIgnored_unexpCnt : (clearIgnored s).unexpCnt = s.unexpCnt := rfl
@[simp] theorem clearIgnored_mem : (clearIgnored s).mem = s.mem := rfl
@[simp] theorem clearIgnored_pay : (clearIgnored s).pay = s.pay := rfl
@[simp] theorem clearIgnored_sample : (clearIgnored s).sample = s.sample := rfl
@[simp] theorem clearIgnored_fdesc : (clearIgnored s).fdesc = s.fdesc := rfl
@[simp] theorem clearIgnored_op : (clearIgnored s).op = s.op := rfl
@[simp] theorem clearIgnored_phase : (clearIgnored s).phase = s.phase := rfl
@[simp] theorem clearIgnored_esc : (clearIgnored s).esc = s.esc := rfl
@[simp] theorem clearIgnored_hcnt : (clearIgnored s).hcnt = s.hcnt := rfl
@[simp] theorem clearIgnored_plen : (clearIgnored s).plen = s.plen := rfl
@[simp] theorem clearIgnored_pcnt : (clearIgnored s).pcnt = s.pcnt := rfl
@[simp] theorem clearIgnored_scnt : (clearIgnored s).scnt = s.scnt := rfl
@[simp] theorem clearIgnored_kind : (clearIgnored s).kind = s.kind := rfl
@[simp] theorem clearIgnored_txpkt : (clearIgnored s).txpkt = s.txpkt := rfl
@[simp] theorem clearIgnored_tidx : (clearIgnored s).tidx = s.tidx := rfl
@[simp] theorem clearIgnored_rneed : (clearIgnored s).rneed = s.rneed := rfl
@[simp] theorem clearIgnored_rx : (clearIgnored s).rx = s.rx := rfl
@[simp] theorem clearIgnored_tx : (clearIgnored s).tx = s.tx := rfl
@[simp] theorem clearIgnored_params : (clearIgnored s).params = s.params := rfl
@[simp] theorem clearIgnored_resp : (clearIgnored s).resp = s.resp := rfl
@[simp] theorem clearIgnored_boots : (clearIgnored s).boots = s.boots := rfl
@[simp] theorem clearIgnored_resets : (clearIgnored s).resets = s.resets := rfl
@[simp] theorem clearIgnored_script : (clearIgnored s).script = s.script := rfl

@[simp] theorem respond_busy (e : Bool) (d : Word) : (respond e d s).busy = s.busy := rfl
@[simp] theorem respond_done (e : Bool) (d : Word) : (respond e d s).done = s.done := rfl
@[simp] theorem respond_result (e : Bool) (d : Word) : (respond e d s).result = s.result := rfl
@[simp] theorem respond_wrIgnored (e : Bool) (d : Word) : (respond e d s).wrIgnored = s.wrIgnored := rfl
@[simp] theorem respond_toEn (e : Bool) (d : Word) : (respond e d s).toEn = s.toEn := rfl
@[simp] theorem respond_stopCode (e : Bool) (d : Word) : (respond e d s).stopCode = s.stopCode := rfl
@[simp] theorem respond_cmd (e : Bool) (d : Word) : (respond e d s).cmd = s.cmd := rfl
@[simp] theorem respond_txLen (e : Bool) (d : Word) : (respond e d s).txLen = s.txLen := rfl
@[simp] theorem respond_respLen (e : Bool) (d : Word) : (respond e d s).respLen = s.respLen := rfl
@[simp] theorem respond_ckCalc (e : Bool) (d : Word) : (respond e d s).ckCalc = s.ckCalc := rfl
@[simp] theorem respond_ckClaim (e : Bool) (d : Word) : (respond e d s).ckClaim = s.ckClaim := rfl
@[simp] theorem respond_txck (e : Bool) (d : Word) : (respond e d s).txck = s.txck := rfl
@[simp] theorem respond_echo (e : Bool) (d : Word) : (respond e d s).echo = s.echo := rfl
@[simp] theorem respond_respField (e : Bool) (d : Word) : (respond e d s).respField = s.respField := rfl
@[simp] theorem respond_rxCnt (e : Bool) (d : Word) : (respond e d s).rxCnt = s.rxCnt := rfl
@[simp] theorem respond_hdr (e : Bool) (d : Word) : (respond e d s).hdr = s.hdr := rfl
@[simp] theorem respond_aux1 (e : Bool) (d : Word) : (respond e d s).aux1 = s.aux1 := rfl
@[simp] theorem respond_aux2 (e : Bool) (d : Word) : (respond e d s).aux2 = s.aux2 := rfl
@[simp] theorem respond_nframes (e : Bool) (d : Word) : (respond e d s).nframes = s.nframes := rfl
@[simp] theorem respond_dropCnt (e : Bool) (d : Word) : (respond e d s).dropCnt = s.dropCnt := rfl
@[simp] theorem respond_unexpCnt (e : Bool) (d : Word) : (respond e d s).unexpCnt = s.unexpCnt := rfl
@[simp] theorem respond_mem (e : Bool) (d : Word) : (respond e d s).mem = s.mem := rfl
@[simp] theorem respond_pay (e : Bool) (d : Word) : (respond e d s).pay = s.pay := rfl
@[simp] theorem respond_sample (e : Bool) (d : Word) : (respond e d s).sample = s.sample := rfl
@[simp] theorem respond_fdesc (e : Bool) (d : Word) : (respond e d s).fdesc = s.fdesc := rfl
@[simp] theorem respond_op (e : Bool) (d : Word) : (respond e d s).op = s.op := rfl
@[simp] theorem respond_phase (e : Bool) (d : Word) : (respond e d s).phase = s.phase := rfl
@[simp] theorem respond_esc (e : Bool) (d : Word) : (respond e d s).esc = s.esc := rfl
@[simp] theorem respond_hcnt (e : Bool) (d : Word) : (respond e d s).hcnt = s.hcnt := rfl
@[simp] theorem respond_plen (e : Bool) (d : Word) : (respond e d s).plen = s.plen := rfl
@[simp] theorem respond_pcnt (e : Bool) (d : Word) : (respond e d s).pcnt = s.pcnt := rfl
@[simp] theorem respond_scnt (e : Bool) (d : Word) : (respond e d s).scnt = s.scnt := rfl
@[simp] theorem respond_kind (e : Bool) (d : Word) : (respond e d s).kind = s.kind := rfl
@[simp] theorem respond_txpkt (e : Bool) (d : Word) : (respond e d s).txpkt = s.txpkt := rfl
@[simp] theorem respond_tidx (e : Bool) (d : Word) : (respond e d s).tidx = s.tidx := rfl
@[simp] theorem respond_rneed (e : Bool) (d : Word) : (respond e d s).rneed = s.rneed := rfl
@[simp] theorem respond_rx (e : Bool) (d : Word) : (respond e d s).rx = s.rx := rfl
@[simp] theorem respond_tx (e : Bool) (d : Word) : (respond e d s).tx = s.tx := rfl
@[simp] theorem respond_params (e : Bool) (d : Word) : (respond e d s).params = s.params := rfl
@[simp] theorem respond_resp (e : Bool) (d : Word) : (respond e d s).resp = some { error := e, data := d } := rfl
@[simp] theorem respond_boots (e : Bool) (d : Word) : (respond e d s).boots = s.boots := rfl
@[simp] theorem respond_resets (e : Bool) (d : Word) : (respond e d s).resets = s.resets := rfl
@[simp] theorem respond_script (e : Bool) (d : Word) : (respond e d s).script = s.script := rfl

@[simp] theorem storeByte_busy (a : Nat) (b : Byte) : (storeByte a b s).busy = s.busy := rfl
@[simp] theorem storeByte_done (a : Nat) (b : Byte) : (storeByte a b s).done = s.done := rfl
@[simp] theorem storeByte_result (a : Nat) (b : Byte) : (storeByte a b s).result = s.result := rfl
@[simp] theorem storeByte_wrIgnored (a : Nat) (b : Byte) : (storeByte a b s).wrIgnored = s.wrIgnored := rfl
@[simp] theorem storeByte_toEn (a : Nat) (b : Byte) : (storeByte a b s).toEn = s.toEn := rfl
@[simp] theorem storeByte_stopCode (a : Nat) (b : Byte) : (storeByte a b s).stopCode = s.stopCode := rfl
@[simp] theorem storeByte_cmd (a : Nat) (b : Byte) : (storeByte a b s).cmd = s.cmd := rfl
@[simp] theorem storeByte_txLen (a : Nat) (b : Byte) : (storeByte a b s).txLen = s.txLen := rfl
@[simp] theorem storeByte_respLen (a : Nat) (b : Byte) : (storeByte a b s).respLen = s.respLen := rfl
@[simp] theorem storeByte_ckCalc (a : Nat) (b : Byte) : (storeByte a b s).ckCalc = s.ckCalc := rfl
@[simp] theorem storeByte_ckClaim (a : Nat) (b : Byte) : (storeByte a b s).ckClaim = s.ckClaim := rfl
@[simp] theorem storeByte_txck (a : Nat) (b : Byte) : (storeByte a b s).txck = s.txck := rfl
@[simp] theorem storeByte_echo (a : Nat) (b : Byte) : (storeByte a b s).echo = s.echo := rfl
@[simp] theorem storeByte_respField (a : Nat) (b : Byte) : (storeByte a b s).respField = s.respField := rfl
@[simp] theorem storeByte_rxCnt (a : Nat) (b : Byte) : (storeByte a b s).rxCnt = s.rxCnt := rfl
@[simp] theorem storeByte_hdr (a : Nat) (b : Byte) : (storeByte a b s).hdr = s.hdr := rfl
@[simp] theorem storeByte_aux1 (a : Nat) (b : Byte) : (storeByte a b s).aux1 = s.aux1 := rfl
@[simp] theorem storeByte_aux2 (a : Nat) (b : Byte) : (storeByte a b s).aux2 = s.aux2 := rfl
@[simp] theorem storeByte_nframes (a : Nat) (b : Byte) : (storeByte a b s).nframes = s.nframes := rfl
@[simp] theorem storeByte_dropCnt (a : Nat) (b : Byte) : (storeByte a b s).dropCnt = s.dropCnt := rfl
@[simp] theorem storeByte_unexpCnt (a : Nat) (b : Byte) : (storeByte a b s).unexpCnt = s.unexpCnt := rfl
@[simp] theorem storeByte_mem (a : Nat) (b : Byte) : (storeByte a b s).mem = memPut s.mem a b := rfl
@[simp] theorem storeByte_pay (a : Nat) (b : Byte) : (storeByte a b s).pay = s.pay := rfl
@[simp] theorem storeByte_sample (a : Nat) (b : Byte) : (storeByte a b s).sample = s.sample := rfl
@[simp] theorem storeByte_fdesc (a : Nat) (b : Byte) : (storeByte a b s).fdesc = s.fdesc := rfl
@[simp] theorem storeByte_op (a : Nat) (b : Byte) : (storeByte a b s).op = s.op := rfl
@[simp] theorem storeByte_phase (a : Nat) (b : Byte) : (storeByte a b s).phase = s.phase := rfl
@[simp] theorem storeByte_esc (a : Nat) (b : Byte) : (storeByte a b s).esc = s.esc := rfl
@[simp] theorem storeByte_hcnt (a : Nat) (b : Byte) : (storeByte a b s).hcnt = s.hcnt := rfl
@[simp] theorem storeByte_plen (a : Nat) (b : Byte) : (storeByte a b s).plen = s.plen := rfl
@[simp] theorem storeByte_pcnt (a : Nat) (b : Byte) : (storeByte a b s).pcnt = s.pcnt := rfl
@[simp] theorem storeByte_scnt (a : Nat) (b : Byte) : (storeByte a b s).scnt = s.scnt := rfl
@[simp] theorem storeByte_kind (a : Nat) (b : Byte) : (storeByte a b s).kind = s.kind := rfl
@[simp] theorem storeByte_txpkt (a : Nat) (b : Byte) : (storeByte a b s).txpkt = s.txpkt := rfl
@[simp] theorem storeByte_tidx (a : Nat) (b : Byte) : (storeByte a b s).tidx = s.tidx := rfl
@[simp] theorem storeByte_rneed (a : Nat) (b : Byte) : (storeByte a b s).rneed = s.rneed := rfl
@[simp] theorem storeByte_rx (a : Nat) (b : Byte) : (storeByte a b s).rx = s.rx := rfl
@[simp] theorem storeByte_tx (a : Nat) (b : Byte) : (storeByte a b s).tx = s.tx := rfl
@[simp] theorem storeByte_params (a : Nat) (b : Byte) : (storeByte a b s).params = s.params := rfl
@[simp] theorem storeByte_resp (a : Nat) (b : Byte) : (storeByte a b s).resp = s.resp := rfl
@[simp] theorem storeByte_boots (a : Nat) (b : Byte) : (storeByte a b s).boots = s.boots := rfl
@[simp] theorem storeByte_resets (a : Nat) (b : Byte) : (storeByte a b s).resets = s.resets := rfl
@[simp] theorem storeByte_script (a : Nat) (b : Byte) : (storeByte a b s).script = s.script := rfl

@[simp] theorem startFrame_busy : (startFrame s).busy = s.busy := rfl
@[simp] theorem startFrame_done : (startFrame s).done = s.done := rfl
@[simp] theorem startFrame_result : (startFrame s).result = s.result := rfl
@[simp] theorem startFrame_wrIgnored : (startFrame s).wrIgnored = s.wrIgnored := rfl
@[simp] theorem startFrame_toEn : (startFrame s).toEn = s.toEn := rfl
@[simp] theorem startFrame_stopCode : (startFrame s).stopCode = s.stopCode := rfl
@[simp] theorem startFrame_cmd : (startFrame s).cmd = s.cmd := rfl
@[simp] theorem startFrame_txLen : (startFrame s).txLen = s.txLen := rfl
@[simp] theorem startFrame_respLen : (startFrame s).respLen = s.respLen := rfl
@[simp] theorem startFrame_ckCalc : (startFrame s).ckCalc = s.ckCalc := rfl
@[simp] theorem startFrame_ckClaim : (startFrame s).ckClaim = s.ckClaim := rfl
@[simp] theorem startFrame_txck : (startFrame s).txck = s.txck := rfl
@[simp] theorem startFrame_echo : (startFrame s).echo = s.echo := rfl
@[simp] theorem startFrame_respField : (startFrame s).respField = s.respField := rfl
@[simp] theorem startFrame_rxCnt : (startFrame s).rxCnt = s.rxCnt := rfl
@[simp] theorem startFrame_hdr : (startFrame s).hdr = Vector.replicate 8 0 := rfl
@[simp] theorem startFrame_aux1 : (startFrame s).aux1 = s.aux1 := rfl
@[simp] theorem startFrame_aux2 : (startFrame s).aux2 = s.aux2 := rfl
@[simp] theorem startFrame_nframes : (startFrame s).nframes = s.nframes := rfl
@[simp] theorem startFrame_dropCnt : (startFrame s).dropCnt = s.dropCnt := rfl
@[simp] theorem startFrame_unexpCnt : (startFrame s).unexpCnt = s.unexpCnt := rfl
@[simp] theorem startFrame_mem : (startFrame s).mem = s.mem := rfl
@[simp] theorem startFrame_pay : (startFrame s).pay = s.pay := rfl
@[simp] theorem startFrame_sample : (startFrame s).sample = s.sample := rfl
@[simp] theorem startFrame_fdesc : (startFrame s).fdesc = s.fdesc := rfl
@[simp] theorem startFrame_op : (startFrame s).op = s.op := rfl
@[simp] theorem startFrame_phase : (startFrame s).phase = .hdr := rfl
@[simp] theorem startFrame_esc : (startFrame s).esc = false := rfl
@[simp] theorem startFrame_hcnt : (startFrame s).hcnt = 0 := rfl
@[simp] theorem startFrame_plen : (startFrame s).plen = 0 := rfl
@[simp] theorem startFrame_pcnt : (startFrame s).pcnt = 0 := rfl
@[simp] theorem startFrame_scnt : (startFrame s).scnt = 0 := rfl
@[simp] theorem startFrame_kind : (startFrame s).kind = s.kind := rfl
@[simp] theorem startFrame_txpkt : (startFrame s).txpkt = s.txpkt := rfl
@[simp] theorem startFrame_tidx : (startFrame s).tidx = s.tidx := rfl
@[simp] theorem startFrame_rneed : (startFrame s).rneed = s.rneed := rfl
@[simp] theorem startFrame_rx : (startFrame s).rx = s.rx := rfl
@[simp] theorem startFrame_tx : (startFrame s).tx = s.tx := rfl
@[simp] theorem startFrame_params : (startFrame s).params = s.params := rfl
@[simp] theorem startFrame_resp : (startFrame s).resp = s.resp := rfl
@[simp] theorem startFrame_boots : (startFrame s).boots = s.boots := rfl
@[simp] theorem startFrame_resets : (startFrame s).resets = s.resets := rfl
@[simp] theorem startFrame_script : (startFrame s).script = s.script := rfl

@[simp] theorem storeHdr_busy (b : Byte) : (storeHdr b s).busy = s.busy := rfl
@[simp] theorem storeHdr_done (b : Byte) : (storeHdr b s).done = s.done := rfl
@[simp] theorem storeHdr_result (b : Byte) : (storeHdr b s).result = s.result := rfl
@[simp] theorem storeHdr_wrIgnored (b : Byte) : (storeHdr b s).wrIgnored = s.wrIgnored := rfl
@[simp] theorem storeHdr_toEn (b : Byte) : (storeHdr b s).toEn = s.toEn := rfl
@[simp] theorem storeHdr_stopCode (b : Byte) : (storeHdr b s).stopCode = s.stopCode := rfl
@[simp] theorem storeHdr_cmd (b : Byte) : (storeHdr b s).cmd = s.cmd := rfl
@[simp] theorem storeHdr_txLen (b : Byte) : (storeHdr b s).txLen = s.txLen := rfl
@[simp] theorem storeHdr_respLen (b : Byte) : (storeHdr b s).respLen = s.respLen := rfl
@[simp] theorem storeHdr_ckCalc (b : Byte) : (storeHdr b s).ckCalc = s.ckCalc := rfl
@[simp] theorem storeHdr_ckClaim (b : Byte) : (storeHdr b s).ckClaim = s.ckClaim := rfl
@[simp] theorem storeHdr_txck (b : Byte) : (storeHdr b s).txck = s.txck := rfl
@[simp] theorem storeHdr_echo (b : Byte) : (storeHdr b s).echo = s.echo := rfl
@[simp] theorem storeHdr_respField (b : Byte) : (storeHdr b s).respField = s.respField := rfl
@[simp] theorem storeHdr_rxCnt (b : Byte) : (storeHdr b s).rxCnt = s.rxCnt := rfl
@[simp] theorem storeHdr_hdr (b : Byte) : (storeHdr b s).hdr = s.hdr.setIfInBounds s.hcnt b := rfl
@[simp] theorem storeHdr_aux1 (b : Byte) : (storeHdr b s).aux1 = s.aux1 := rfl
@[simp] theorem storeHdr_aux2 (b : Byte) : (storeHdr b s).aux2 = s.aux2 := rfl
@[simp] theorem storeHdr_nframes (b : Byte) : (storeHdr b s).nframes = s.nframes := rfl
@[simp] theorem storeHdr_dropCnt (b : Byte) : (storeHdr b s).dropCnt = s.dropCnt := rfl
@[simp] theorem storeHdr_unexpCnt (b : Byte) : (storeHdr b s).unexpCnt = s.unexpCnt := rfl
@[simp] theorem storeHdr_mem (b : Byte) : (storeHdr b s).mem = s.mem := rfl
@[simp] theorem storeHdr_pay (b : Byte) : (storeHdr b s).pay = s.pay := rfl
@[simp] theorem storeHdr_sample (b : Byte) : (storeHdr b s).sample = s.sample := rfl
@[simp] theorem storeHdr_fdesc (b : Byte) : (storeHdr b s).fdesc = s.fdesc := rfl
@[simp] theorem storeHdr_op (b : Byte) : (storeHdr b s).op = s.op := rfl
@[simp] theorem storeHdr_phase (b : Byte) : (storeHdr b s).phase = s.phase := rfl
@[simp] theorem storeHdr_esc (b : Byte) : (storeHdr b s).esc = s.esc := rfl
@[simp] theorem storeHdr_hcnt (b : Byte) : (storeHdr b s).hcnt = s.hcnt + 1 := rfl
@[simp] theorem storeHdr_plen (b : Byte) : (storeHdr b s).plen = s.plen := rfl
@[simp] theorem storeHdr_pcnt (b : Byte) : (storeHdr b s).pcnt = s.pcnt := rfl
@[simp] theorem storeHdr_scnt (b : Byte) : (storeHdr b s).scnt = s.scnt := rfl
@[simp] theorem storeHdr_kind (b : Byte) : (storeHdr b s).kind = s.kind := rfl
@[simp] theorem storeHdr_txpkt (b : Byte) : (storeHdr b s).txpkt = s.txpkt := rfl
@[simp] theorem storeHdr_tidx (b : Byte) : (storeHdr b s).tidx = s.tidx := rfl
@[simp] theorem storeHdr_rneed (b : Byte) : (storeHdr b s).rneed = s.rneed := rfl
@[simp] theorem storeHdr_rx (b : Byte) : (storeHdr b s).rx = s.rx := rfl
@[simp] theorem storeHdr_tx (b : Byte) : (storeHdr b s).tx = s.tx := rfl
@[simp] theorem storeHdr_params (b : Byte) : (storeHdr b s).params = s.params := rfl
@[simp] theorem storeHdr_resp (b : Byte) : (storeHdr b s).resp = s.resp := rfl
@[simp] theorem storeHdr_boots (b : Byte) : (storeHdr b s).boots = s.boots := rfl
@[simp] theorem storeHdr_resets (b : Byte) : (storeHdr b s).resets = s.resets := rfl
@[simp] theorem storeHdr_script (b : Byte) : (storeHdr b s).script = s.script := rfl

@[simp] theorem enterStop_busy : (enterStop s).busy = s.busy := rfl
@[simp] theorem enterStop_done : (enterStop s).done = s.done := rfl
@[simp] theorem enterStop_result : (enterStop s).result = s.result := rfl
@[simp] theorem enterStop_wrIgnored : (enterStop s).wrIgnored = s.wrIgnored := rfl
@[simp] theorem enterStop_toEn : (enterStop s).toEn = s.toEn := rfl
@[simp] theorem enterStop_stopCode : (enterStop s).stopCode = s.stopCode := rfl
@[simp] theorem enterStop_cmd : (enterStop s).cmd = s.cmd := rfl
@[simp] theorem enterStop_txLen : (enterStop s).txLen = s.txLen := rfl
@[simp] theorem enterStop_respLen : (enterStop s).respLen = s.respLen := rfl
@[simp] theorem enterStop_ckCalc : (enterStop s).ckCalc = s.ckCalc := rfl
@[simp] theorem enterStop_ckClaim : (enterStop s).ckClaim = s.ckClaim := rfl
@[simp] theorem enterStop_txck : (enterStop s).txck = s.txck := rfl
@[simp] theorem enterStop_echo : (enterStop s).echo = s.echo := rfl
@[simp] theorem enterStop_respField : (enterStop s).respField = s.respField := rfl
@[simp] theorem enterStop_rxCnt : (enterStop s).rxCnt = s.rxCnt := rfl
@[simp] theorem enterStop_hdr : (enterStop s).hdr = s.hdr := rfl
@[simp] theorem enterStop_aux1 : (enterStop s).aux1 = s.aux1 := rfl
@[simp] theorem enterStop_aux2 : (enterStop s).aux2 = s.aux2 := rfl
@[simp] theorem enterStop_nframes : (enterStop s).nframes = s.nframes := rfl
@[simp] theorem enterStop_dropCnt : (enterStop s).dropCnt = s.dropCnt := rfl
@[simp] theorem enterStop_unexpCnt : (enterStop s).unexpCnt = s.unexpCnt := rfl
@[simp] theorem enterStop_mem : (enterStop s).mem = s.mem := rfl
@[simp] theorem enterStop_pay : (enterStop s).pay = s.pay := rfl
@[simp] theorem enterStop_sample : (enterStop s).sample = s.sample := rfl
@[simp] theorem enterStop_fdesc : (enterStop s).fdesc = s.fdesc := rfl
@[simp] theorem enterStop_op : (enterStop s).op = s.op := rfl
@[simp] theorem enterStop_phase : (enterStop s).phase = .stoprd := rfl
@[simp] theorem enterStop_esc : (enterStop s).esc = s.esc := rfl
@[simp] theorem enterStop_hcnt : (enterStop s).hcnt = s.hcnt := rfl
@[simp] theorem enterStop_plen : (enterStop s).plen = s.plen := rfl
@[simp] theorem enterStop_pcnt : (enterStop s).pcnt = s.pcnt := rfl
@[simp] theorem enterStop_scnt : (enterStop s).scnt = 0 := rfl
@[simp] theorem enterStop_kind : (enterStop s).kind = s.kind := rfl
@[simp] theorem enterStop_txpkt : (enterStop s).txpkt = s.txpkt := rfl
@[simp] theorem enterStop_tidx : (enterStop s).tidx = s.tidx := rfl
@[simp] theorem enterStop_rneed : (enterStop s).rneed = s.rneed := rfl
@[simp] theorem enterStop_rx : (enterStop s).rx = s.rx := rfl
@[simp] theorem enterStop_tx : (enterStop s).tx = s.tx := rfl
@[simp] theorem enterStop_params : (enterStop s).params = s.params := rfl
@[simp] theorem enterStop_resp : (enterStop s).resp = s.resp := rfl
@[simp] theorem enterStop_boots : (enterStop s).boots = s.boots := rfl
@[simp] theorem enterStop_resets : (enterStop s).resets = s.resets := rfl
@[simp] theorem enterStop_script : (enterStop s).script = s.script := rfl

end Sys2Proof.Machine
end

