-- ==== Sys2Proof/Laws/Memory.lean ====
section
/-! SUPPORT. The laws of the byte stores: a read after a write, and that every write keeps the canonical form. -/

namespace Sys2Proof.Machine

/-- A read gives what the last write to the same address wrote, and any other address reads as before. -/
theorem memGet_memPut (m : Memory) (a k : Nat) (b : Byte) (h : Memory.wf m) :
    memGet (memPut m a b) k = if k = a then some b else memGet m k := by
  induction m with
  | nil => simp [memPut, memGet, eq_comm]
  | cons c m ih =>
    obtain ⟨j, v⟩ := c
    have hm : Memory.wf m := (List.pairwise_cons.mp h).2
    have hk := ih hm
    simp only [memPut]
    grind [memGet]

/-- The addresses listed after a write are those listed before and the one written. -/
theorem mem_memPut {m : Memory} {a : Nat} {b : Byte} {c : Host.Cell} (h : c ∈ memPut m a b) :
    c ∈ m ∨ c = (a, b) := by
  induction m with
  | nil => simpa [memPut] using h
  | cons d m ih =>
    simp only [memPut] at h
    split at h
    · simpa [or_comm] using h
    · split at h
      · rcases List.mem_cons.mp h with h | h
        · exact .inr h
        · exact .inl (List.mem_cons_of_mem _ h)
      · rcases List.mem_cons.mp h with h | h
        · exact .inl (h ▸ List.mem_cons_self ..)
        · exact (ih h).imp_left (List.mem_cons_of_mem _)

/-- A write keeps the canonical form. -/
theorem memPut_wf {m : Memory} (a : Nat) (b : Byte) (h : Memory.wf m) : Memory.wf (memPut m a b) := by
  induction m with
  | nil => simp [memPut, Memory.wf]
  | cons d m ih =>
    obtain ⟨hd, hm⟩ := List.pairwise_cons.mp h
    simp only [memPut]
    split
    next hlt =>
      refine List.pairwise_cons.mpr ⟨fun c hc => ?_, h⟩
      rcases List.mem_cons.mp hc with rfl | hc
      · exact hlt
      · exact Nat.lt_trans hlt (hd c hc)
    next hlt =>
      split
      next heq => exact List.pairwise_cons.mpr ⟨fun c hc => heq ▸ hd c hc, hm⟩
      next hne =>
        refine List.pairwise_cons.mpr ⟨fun c hc => ?_, ih hm⟩
        rcases mem_memPut hc with hc | rfl
        · exact hd c hc
        · show d.1 < a
          omega

/-- A byte that has been written stays written. -/
theorem memGet_memPut_isSome {m : Memory} {a k : Nat} {b : Byte} (hm : Memory.wf m)
    (h : k = a ∨ (memGet m k).isSome = true) : (memGet (memPut m a b) k).isSome = true := by
  rw [memGet_memPut m a k b hm]
  split
  · rfl
  · exact h.resolve_left ‹_›

/-- Canonical memories that read alike everywhere are equal. -/
theorem memory_ext {m n : Memory} (hm : Memory.wf m) (hn : Memory.wf n) (h : ∀ a, memGet m a = memGet n a) : m = n := by
  have below : ∀ {l : Memory} {k : Nat}, (∀ c ∈ l, k < c.1) → memGet l k = none := by
    intro l k hl
    induction l with
    | nil => rfl
    | cons c l ih =>
      have hc := hl c (List.mem_cons_self ..)
      simp only [memGet]
      rw [if_neg (by omega)]
      exact ih fun d hd => hl d (List.mem_cons_of_mem _ hd)
  induction m generalizing n with
  | nil =>
    cases n with
    | nil => rfl
    | cons c n => have := h c.1; simp [memGet] at this
  | cons c m ih =>
    obtain ⟨hc, hm'⟩ := List.pairwise_cons.mp hm
    cases n with
    | nil => have := h c.1; simp [memGet] at this
    | cons d n =>
      obtain ⟨hd, hn'⟩ := List.pairwise_cons.mp hn
      have key : c.1 = d.1 := by
        rcases Nat.lt_trichotomy c.1 d.1 with hlt | heq | hgt
        · have hx := h c.1
          rw [below (l := d :: n) (k := c.1) (by
            intro e he; rcases List.mem_cons.mp he with rfl | he
            · exact hlt
            · exact Nat.lt_trans hlt (hd e he))] at hx
          simp [memGet] at hx
        · exact heq
        · have hx := h d.1
          rw [below (l := c :: m) (k := d.1) (by
            intro e he; rcases List.mem_cons.mp he with rfl | he
            · exact hgt
            · exact Nat.lt_trans hgt (hc e he))] at hx
          simp [memGet] at hx
      have val : c.2 = d.2 := by
        have hx := h c.1
        simpa [memGet, key] using hx
      have rest : m = n := by
        refine ih hm' hn' fun a => ?_
        by_cases ha : c.1 = a
        · rw [below fun e he => ha ▸ hc e he, below fun e he => by rw [← ha, key]; exact hd e he]
        · have hx := h a
          simp only [memGet] at hx
          rwa [if_neg ha, if_neg (key ▸ ha)] at hx
      rw [rest, Prod.ext key val]

/-- What TXBUF and RXBUF read as depends on the byte stores and the power-on count alone. -/
theorem readByte_congr {s t : State} (hm : t.mem = s.mem) (hb : t.boots = s.boots) (a : Nat) :
    readByte t a = readByte s a := by
  unfold readByte; rw [hm, hb]

/-- A byte store read after a write to it (R39). -/
theorem readByte_storeByte (s : State) (a k : Nat) (b : Byte) (h : Memory.wf s.mem) :
    readByte (storeByte a b s) k = if k = a then b else readByte s k := by
  simp only [readByte, storeByte_mem, storeByte_boots, memGet_memPut s.mem a k b h]
  split <;> rfl

/-- PAYBUF read after a write to it (R38). -/
theorem paybuf_storePaybuf (s : State) (i k : Nat) (b : Byte) (h : Memory.wf s.pay) (hi : i < payMax) :
    paybuf (storePaybuf i b s) k = if k = i then b else paybuf s k := by
  simp only [storePaybuf, if_pos hi, paybuf, memGet_memPut s.pay i k b h]
  split <;> rfl

/-- A byte read after a TXBUF word was written: one of the word's bytes, or as before (R76). -/
theorem readByte_storeWord (s : State) (a k : Nat) (v : Word) (h : Memory.wf s.mem) :
    readByte (storeWord a v s) k =
      if k = a + 3 then v.extractLsb' 24 8 else if k = a + 2 then v.extractLsb' 16 8
      else if k = a + 1 then v.extractLsb' 8 8 else if k = a then v.extractLsb' 0 8 else readByte s k := by
  have w1 := memPut_wf a (v.extractLsb' 0 8) h
  have w2 := memPut_wf (a + 1) (v.extractLsb' 8 8) w1
  have w3 := memPut_wf (a + 2) (v.extractLsb' 16 8) w2
  unfold storeWord
  rw [readByte_storeByte _ _ _ _ w3, readByte_storeByte _ _ _ _ w2, readByte_storeByte _ _ _ _ w1,
    readByte_storeByte _ _ _ _ h]

/-- Every store of the machine keeps the canonical form: a word of TXBUF. -/
theorem storeWord_wf (a : Nat) (v : Word) (s : State) (h : Memory.wf s.mem) : Memory.wf (storeWord a v s).mem := by
  simp only [storeWord, storeByte_mem]
  exact memPut_wf _ _ (memPut_wf _ _ (memPut_wf _ _ (memPut_wf _ _ h)))

/-- A byte of RXBUF. -/
theorem storeRxbuf_wf (i : Nat) (b : Byte) (s : State) (h : Memory.wf s.mem) : Memory.wf (storeRxbuf i b s).mem := by
  unfold storeRxbuf; split
  · exact memPut_wf _ _ h
  · exact h

/-- A byte of PAYBUF. -/
theorem storePaybuf_wf (i : Nat) (b : Byte) (s : State) (h : Memory.wf s.pay) : Memory.wf (storePaybuf i b s).pay := by
  unfold storePaybuf; split
  · exact memPut_wf _ _ h
  · exact h

/-- Reset memory is canonical. -/
theorem reset_mem_wf : Memory.wf State.reset.mem ∧ Memory.wf State.reset.pay := by decide

end Sys2Proof.Machine
end

