-- ==== Sys2Proof/Laws/Ops.lean ====
section
/-! SUPPORT. For each shared operation one lemma that says once everything it can do; the provers cite these and do
not unfold the operations. -/

namespace Sys2Proof.Machine

variable {s t : State}

/-! ## Bytes in words, and the escape rule -/

/-- The value of fields put side by side. -/
theorem append_toNat {v w : Nat} (x : BitVec v) (y : BitVec w) :
    (x ++ y).toNat = x.toNat * 2 ^ w + y.toNat := by
  rw [BitVec.toNat_append, ← Nat.shiftLeft_add_eq_or_of_lt y.isLt, Nat.shiftLeft_eq]

/-- The value of a buffer word, by its bytes (R76). -/
theorem readWord_toNat (s : State) (a : Nat) :
    (readWord s a).toNat = (readByte s (a + 3)).toNat * 16777216 + (readByte s (a + 2)).toNat * 65536 +
      (readByte s (a + 1)).toNat * 256 + (readByte s a).toNat := by
  simp only [readWord, append_toNat]; omega

/-- A byte put in a word is the byte a byte format reads there. -/
theorem decodeByte_setWidth (b : Byte) : decodeByte (b.setWidth 32) = .ok b := by
  have := b.isLt
  simp [decodeByte]; omega

theorem unescapeBytes_nil : unescapeBytes [] = some [] := rfl

/-- A raw byte other than the escape byte is the next logical byte. -/
theorem unescapeBytes_lit {r : Byte} (h : r ≠ escByte) (rest : List Byte) :
    unescapeBytes (r :: rest) = (unescapeBytes rest).map (r :: ·) := by
  cases rest <;> simp [unescapeBytes, h]

/-- An escape pair is one logical byte. -/
theorem unescapeBytes_pair (q : Byte) (rest : List Byte) :
    unescapeBytes (escByte :: q :: rest) = (unescapeBytes rest).map (unescape q :: ·) := by
  simp [unescapeBytes]

/-- A lone escape byte gives nothing. -/
theorem unescapeBytes_lone : unescapeBytes [escByte] = none := by simp [unescapeBytes]

/-- The device's form of a byte reads back as that byte (R110). -/
theorem unescapeBytes_escapeByte (b : Byte) (bs : List Byte) :
    unescapeBytes (escapeByte b ++ bs) = (unescapeBytes bs).map (b :: ·) := by
  unfold escapeByte
  split
  next h =>
    rcases h with rfl | rfl
    · exact unescapeBytes_pair _ _
    · exact unescapeBytes_pair _ _
  next h => exact unescapeBytes_lit (fun e => h (.inr e)) _

/-! ## Operation start -/

@[simp] theorem argOk_clearResult (op : Op) (s : State) : argOk op (clearResult s) = argOk op s := by
  cases op <;> rfl

/-- All an operation start can do (R250, R251). -/
theorem startOp_cases (op : Op) (begin : State → State) (s : State) :
    (s.busy = true ∧ startOp op begin s = ignoreWrite s) ∨
    (s.busy = false ∧ argOk op s = true ∧ startOp op begin s = begin { clearResult s with busy := true, op := op }) ∨
    (s.busy = false ∧ argOk op s = false ∧ startOp op begin s = finish .badArg (clearResult s)) := by
  cases hb : s.busy <;> cases ha : argOk op s <;> simp [startOp, hb, ha]

/-- All a reserved operation code can do (R250, R253). -/
theorem startReserved_cases (s : State) :
    (s.busy = true ∧ startReserved s = ignoreWrite s) ∨
    (s.busy = false ∧ startReserved s = finish .badOp (clearResult s)) := by
  cases hb : s.busy <;> simp [startReserved, hb]

/-! ## The stream decoder -/

theorem endTryOrPoll_cases (r : Result) (s : State) :
    (s.op = .tryDecode ∧ endTryOrPoll r s = finish r s) ∨
    (s.op ≠ .tryDecode ∧ endTryOrPoll r s = { s with phase := .poll }) := by
  by_cases h : s.op = .tryDecode <;> simp [endTryOrPoll, h]

/-- Neither end of a decode touches the streams or the byte stores of the window. -/
theorem endTryOrPoll_outside (r : Result) (s : State) :
    (endTryOrPoll r s).rx = s.rx ∧ (endTryOrPoll r s).tx = s.tx ∧ (endTryOrPoll r s).mem = s.mem ∧
      (endTryOrPoll r s).boots = s.boots := by
  rcases endTryOrPoll_cases r s with ⟨-, e⟩ | ⟨-, e⟩ <;> rw [e] <;> exact ⟨rfl, rfl, rfl, rfl⟩

/-- All a logical header byte can do (R196, R198, R200). -/
theorem acceptHdr_cases (b : Byte) (s : State) :
    (s.hcnt = 2 ∧ b = s.stopCode ∧ acceptHdr b s = enterStop (storeHdr b s)) ∨
    (s.hcnt = 7 ∧ acceptHdr b s = headerDone (storeHdr b s)) ∨
    (s.hcnt ≠ 7 ∧ ¬(s.hcnt = 2 ∧ b = s.stopCode) ∧ acceptHdr b s = storeHdr b s) := by
  by_cases h2 : s.hcnt = 2
  · have e : (storeHdr b s).hdr[2] = b := by simp [h2]
    by_cases hb : b = s.stopCode
    · left; simp [acceptHdr, h2, hb]
    · right; right; simp [acceptHdr, h2, hb]
  · by_cases h7 : s.hcnt = 7
    · right; left; simp [acceptHdr, h7]
    · right; right; simp [acceptHdr, h2, h7]

/-- All the frame check can do (R202, R203). -/
theorem checkStep_cases (s : State) :
    (cksum16 (streamCovered s) = be16 s.hdr[0] s.hdr[1] ∧ checkStep s =
      { s with
        ckCalc := cksum16 (streamCovered s), ckClaim := be16 s.hdr[0] s.hdr[1], kind := .data, phase := .emit }) ∨
    (cksum16 (streamCovered s) ≠ be16 s.hdr[0] s.hdr[1] ∧ checkStep s = endTryOrPoll .noData
      { s with
        ckCalc := cksum16 (streamCovered s), ckClaim := be16 s.hdr[0] s.hdr[1], dropCnt := s.dropCnt + 1 }) := by
  by_cases h : cksum16 (streamCovered s) = be16 s.hdr[0] s.hdr[1] <;> simp [checkStep, h]

/-- All EMIT can do (R204, R205). -/
theorem emitStep_cases (s : State) :
    (emitRoom s = false ∧ emitStep s = s) ∨
    (emitRoom s = true ∧ s.kind = .data ∧
      emitStep s = endTryOrPoll .frameDecoded { pushFrame s with nframes := s.nframes + 1 }) ∨
    (emitRoom s = true ∧ s.kind = .stop ∧ emitStep s = finish .streamStopped (pushFrame s)) := by
  cases hr : emitRoom s <;> cases hk : s.kind <;> simp [emitStep, hr, hk]

/-- The room EMIT waits for (R205). -/
theorem emitRoom_iff (s : State) :
    emitRoom s = true ↔
      s.sample.length + emitCount s ≤ s.params.sampleDepth ∧ s.fdesc.length + 1 ≤ s.params.fdescDepth :=
  decide_eq_true_iff

/-- A waiting read times out or waits (R11). -/
theorem readWaits_cases (up : Bool) (s : State) :
    (s.toEn = true ∧ up = true ∧ readWaits up s = finish .transportTimeout s) ∨ readWaits up s = s := by
  cases h : s.toEn <;> cases up <;> simp [readWaits, h]

/-- The sample codes of a payload are half as many as its bytes (R112). -/
theorem sampleCodes_length (bs : List Byte) : (sampleCodes bs).length = bs.length / 2 := by
  induction bs using sampleCodes.induct with
  | case1 hi lo rest ih => simp [sampleCodes, ih]; omega
  | case2 => simp [sampleCodes]
  | case3 => simp [sampleCodes]

theorem payBytes_length (s : State) (n : Nat) : (payBytes s n).length = n := by simp [payBytes]

theorem txBytes_length (s : State) (n : Nat) : (txBytes s n).length = n := by simp [txBytes]

theorem rxBytes_length (s : State) (lo n : Nat) : (rxBytes s lo n).length = n := by simp [rxBytes]

theorem commandPacket_length (c : Byte) (p : List Byte) : (commandPacket c p).length = p.length + 3 := rfl

/-- A frame in EMIT pushes as many samples as it needs room for. -/
theorem emitCodes_length (s : State) : (emitCodes s).length = emitCount s := by
  cases h : s.kind <;> simp [emitCodes, emitCount, h, sampleCodes_length, payBytes_length]

/-- A byte of RXBUF written changes the byte stores alone. -/
theorem storeRxbuf_eq (i : Nat) (b : Byte) (s : State) :
    storeRxbuf i b s = { s with mem := (storeRxbuf i b s).mem } := by
  unfold storeRxbuf; split <;> rfl

/-- A byte of PAYBUF written changes that store alone. -/
theorem storePaybuf_eq (i : Nat) (b : Byte) (s : State) :
    storePaybuf i b s = { s with pay := (storePaybuf i b s).pay } := by
  unfold storePaybuf; split <;> rfl

/-- All a response byte received can change (R164). -/
theorem rxStep_eq (r : Byte) (s : State) :
    rxStep r s =
      { s with
        mem := (storeRxbuf s.rxCnt r s).mem
        rxCnt := s.rxCnt + 1
        echo := if s.rxCnt = 2 then r else s.echo
        respField := if s.rxCnt = 3 then r else s.respField
        phase := if s.rxCnt + 1 = s.rneed then .rchk else .rx } := by
  have e := storeRxbuf_eq s.rxCnt r s
  generalize (storeRxbuf s.rxCnt r s).mem = m at e ⊢
  simp only [rxStep, e]

/-- All a payload byte can change (R201). -/
theorem acceptPay_eq (b : Byte) (s : State) :
    acceptPay b s =
      { s with
        pay := (storePaybuf s.pcnt b s).pay
        pcnt := s.pcnt + 1
        phase := if s.pcnt + 1 = s.plen then .check else .pay } := by
  have e := storePaybuf_eq s.pcnt b s
  generalize (storePaybuf s.pcnt b s).pay = m at e ⊢
  simp only [acceptPay, e]

/-! ## The window -/

theorem inTxbuf_iff (a : Nat) : inTxbuf a = true ↔ 0x200 ≤ a ∧ a < 0x400 := decide_eq_true_iff

theorem inRxbuf_iff (a : Nat) : inRxbuf a = true ↔ 0x400 ≤ a ∧ a < 0x600 := decide_eq_true_iff

theorem writable_iff (a : Nat) :
    writable a = true ↔ (a = 0x008 ∨ a = 0x00C ∨ a = 0x010 ∨ a = 0x014) ∨ (0x200 ≤ a ∧ a < 0x400) := by
  unfold writable
  rw [Bool.or_eq_true, decide_eq_true_iff, inTxbuf_iff]
  rfl

/-- All a host write can do (R73, R78, R79). -/
theorem hostWrite_cases (a : Nat) (v : Word) (s : State) :
    (writable a = true ∧ s.busy = true ∧ hostWrite a v s = ignoreWrite s) ∨
    (writable a = true ∧ s.busy = false ∧ hostWrite a v s = applyWrite a v s) ∨
    (writable a = false ∧ hostWrite a v s = s) := by
  cases hw : writable a <;> cases hb : s.busy <;> simp [hostWrite, hw, hb]

/-- A TXBUF word written changes the byte stores alone. -/
theorem storeWord_eq (a : Nat) (v : Word) (s : State) : storeWord a v s = { s with mem := (storeWord a v s).mem } := rfl

/-- All an applied write can change. -/
theorem applyWrite_eq (a : Nat) (v : Word) (s : State) :
    applyWrite a v s =
      { s with
        toEn := (applyWrite a v s).toEn, stopCode := (applyWrite a v s).stopCode, cmd := (applyWrite a v s).cmd
        txLen := (applyWrite a v s).txLen, respLen := (applyWrite a v s).respLen, mem := (applyWrite a v s).mem } := by
  unfold applyWrite
  split
  · rfl
  split
  · rfl
  split
  · rfl
  split
  · rfl
  split
  · have e := storeWord_eq a v s
    generalize (storeWord a v s).mem = m at e
    rw [e]
  · rfl

/-- A write of a register, or of nothing, leaves the byte stores as they are. -/
theorem applyWrite_mem (a : Nat) (v : Word) (s : State) (h : inTxbuf a = false) : (applyWrite a v s).mem = s.mem := by
  unfold applyWrite
  rw [h]
  (repeat' split) <;> first | rfl | contradiction

/-- A write of a TXBUF word stores the word and nothing else. -/
theorem applyWrite_txbuf (a : Nat) (v : Word) (s : State) (h : inTxbuf a = true) : applyWrite a v s = storeWord a v s := by
  have ha := (inTxbuf_iff a).mp h
  unfold applyWrite
  rw [if_neg, if_neg, if_neg, if_neg, if_pos h]
  all_goals simp only [offCfg, offCmdId, offTxLen, offRespLen]; omega

/-- All a read's side effect can be (R77). -/
theorem readEffect_cases (a : Nat) (s : State) :
    (a = offSample ∧ readEffect a s = { s with sample := s.sample.tail }) ∨
    (a = offFdesc ∧ readEffect a s = { s with fdesc := s.fdesc.tail }) ∨
    (a ≠ offSample ∧ a ≠ offFdesc ∧ readEffect a s = s) := by
  unfold readEffect; split
  · simp_all
  · split <;> simp_all

/-! ## Instructions -/

/-- The state an instruction leaves. -/
def execState (i : Instr) (s : State) : State :=
  match exec i s with
  | .next t => t
  | .fault r => nomatch r
  | .refused _ => s

/-- Every instruction, in every state, has a next state. -/
theorem exec_eq (i : Instr) (s : State) : exec i s = .next (execState i s) := by cases i <;> rfl

theorem exec_next_iff (i : Instr) (s t : State) : exec i s = .next t ↔ t = execState i s := by
  rw [exec_eq]; constructor
  · intro h; cases h; rfl
  · rintro rfl; rfl

/-- No instruction touches the streams, the byte stores of the window, or what selects their free contents: the bytes
a token is made of are consumed by the step that presents it (R87), and SRST keeps TXBUF and RXBUF (R302). -/
theorem execState_outside (i : Instr) (s : State) :
    (execState i s).rx = s.rx ∧ (execState i s).tx = s.tx ∧ (execState i s).mem = s.mem ∧
      (execState i s).boots = s.boots := by
  have start (op : Op) (begin : State → State)
      (hb : ∀ u, (begin u).rx = u.rx ∧ (begin u).tx = u.tx ∧ (begin u).mem = u.mem ∧ (begin u).boots = u.boots) :
      (startOp op begin s).rx = s.rx ∧ (startOp op begin s).tx = s.tx ∧ (startOp op begin s).mem = s.mem ∧
        (startOp op begin s).boots = s.boots := by
    rcases startOp_cases op begin s with ⟨-, e⟩ | ⟨-, -, e⟩ | ⟨-, -, e⟩ <;> rw [e]
    · exact ⟨rfl, rfl, rfl, rfl⟩
    · exact hb _
    · exact ⟨rfl, rfl, rfl, rfl⟩
  have reserved : (startReserved s).rx = s.rx ∧ (startReserved s).tx = s.tx ∧ (startReserved s).mem = s.mem ∧
      (startReserved s).boots = s.boots := by
    rcases startReserved_cases s with ⟨-, e⟩ | ⟨-, e⟩ <;> rw [e] <;> exact ⟨rfl, rfl, rfl, rfl⟩
  have logical (b : Byte) (u : State) : (acceptLogical b u).rx = u.rx ∧ (acceptLogical b u).tx = u.tx ∧
      (acceptLogical b u).mem = u.mem ∧ (acceptLogical b u).boots = u.boots := by
    unfold acceptLogical
    split
    · rcases acceptHdr_cases b u with ⟨-, -, e⟩ | ⟨-, e⟩ | ⟨-, -, e⟩ <;> rw [e] <;> exact ⟨rfl, rfl, rfl, rfl⟩
    · rw [acceptPay_eq]; exact ⟨rfl, rfl, rfl, rfl⟩
    all_goals exact ⟨rfl, rfl, rfl, rfl⟩
  cases i <;> simp only [execState, exec, execNop, execCksum, execVerify, execSendCmd, execTryDecode, execDrain,
    execBadOpLow, execBadOpHigh, execAbort, execSrst, execClrwi, execMarker, execUnexpected, execEsc, execLit,
    execEscd, execStopb, execStop]
  case cksum => exact start _ _ fun _ => ⟨rfl, rfl, rfl, rfl⟩
  case verify => exact start _ _ fun _ => ⟨rfl, rfl, rfl, rfl⟩
  case sendCmd => exact start _ _ fun _ => ⟨rfl, rfl, rfl, rfl⟩
  case tryDecode => exact start _ _ fun _ => ⟨rfl, rfl, rfl, rfl⟩
  case drain => exact start _ _ fun _ => ⟨rfl, rfl, rfl, rfl⟩
  case badOpLow => exact reserved
  case badOpHigh => exact reserved
  case unexpected b =>
    split
    · exact endTryOrPoll_outside .unexpectedByte { s with unexpCnt := s.unexpCnt + 1, aux1 := b }
    · exact ⟨rfl, rfl, rfl, rfl⟩
  case lit b =>
    split
    · exact logical b s
    · exact ⟨rfl, rfl, rfl, rfl⟩
  case escd r =>
    split
    · exact logical (unescape r) { s with esc := false }
    · exact ⟨rfl, rfl, rfl, rfl⟩
  case nop => trivial
  all_goals (repeat' split) <;> exact ⟨rfl, rfl, rfl, rfl⟩

end Sys2Proof.Machine
end

