-- ==== Sys2Proof/Laws/PerInstr.lean ====
section
/-! SUPPORT. Statements made instruction by instruction: that each instruction's own word has the fixed bits of its row
of the opcode table (30_encoding R103, R116-R119). -/

namespace Sys2Proof.Laws.TableRows

/-- A well-formed instruction's word matches its row of the table. -/
def Statement (i : Instr) : Prop := i.wf = true → rowMatches (tableRow i) (encode i) = true

theorem nop : Statement .nop := fun _ => by decide
theorem cksum : Statement .cksum := fun _ => by decide
theorem verify : Statement .verify := fun _ => by decide
theorem sendCmd : Statement .sendCmd := fun _ => by decide
theorem tryDecode : Statement .tryDecode := fun _ => by decide
theorem drain : Statement .drain := fun _ => by decide
theorem badOpLow (op : BitVec 4) : Statement (.badOpLow op) := by revert op; unfold Statement; decide
theorem badOpHigh (op : BitVec 4) : Statement (.badOpHigh op) := by revert op; unfold Statement; decide
theorem abort : Statement .abort := fun _ => by decide
theorem srst : Statement .srst := fun _ => by decide
theorem clrwi : Statement .clrwi := fun _ => by decide
theorem marker : Statement .marker := fun _ => by decide
theorem unexpected (b : Byte) : Statement (.unexpected b) := fun _ => by simp [rowMatches, tableRow]
theorem esc : Statement .esc := fun _ => by decide
theorem lit (b : Byte) : Statement (.lit b) := fun _ => by simp [rowMatches, tableRow]
theorem escd (r : Byte) : Statement (.escd r) := fun _ => by simp [rowMatches, tableRow]
theorem stopb (r : Byte) : Statement (.stopb r) := fun _ => by simp [rowMatches, tableRow]

theorem stop (b : Byte) : Statement (.stop b) := fun _ => by
  have h : b.toNat < 2 ^ 8 := b.isLt
  simp only [rowMatches, tableRow, encode, beq_iff_eq]
  apply BitVec.eq_of_toNat_eq
  rw [BitVec.toNat_and, BitVec.toNat_setWidth, Nat.mod_eq_of_lt (by omega)]
  exact (Nat.and_two_pow_sub_one_eq_mod _ 8).trans (Nat.mod_eq_of_lt h)

end Sys2Proof.Laws.TableRows
end

