-- ==== Sys2Proof/Laws/Step.lean ====
section
/-! SUPPORT. What one step can do, said once: `Move`. Every whole-machine rule is a case analysis of it. -/

namespace Sys2Proof.Machine

/-- What one event can make of a state. -/
inductive Move (s : State) : State → Prop where
  /-- Nothing moves: an engine that waits, a bus access elsewhere, a turn of an idle engine. -/
  | still : Move s s
  | busError : Move s (respond true 0 s)
  | read (a : Nat) : Move s (hostRead a s)
  | write (a : Nat) (v : Word) (h4 : a % 4 = 0) (hlt : a < 4096) : Move s (hostWrite a v (respond false 0 s))
  /-- A CTRL or STATUS write that is an instruction. -/
  | hostInstr (f : Format) (w : Word) (i : Instr) (hf : f = .ctrl ∨ f = .statusWrite) (hi : decode f w = .ok i) :
      Move s (execState i (respond false 0 s))
  /-- A STATUS write with bit 8 clear. -/
  | acknowledge : Move s (respond false 0 s)
  | ck (hp : s.phase = .ck) : Move s (ckStep s)
  | transmit (hp : s.phase = .tx) : Move s (txStep s)
  | receive (r : Byte) (rest : List Byte) (hp : s.phase = .rx) (hq : s.rx = r :: rest) :
      Move s (rxStep r { s with rx := rest })
  | rchk (hp : s.phase = .rchk) : Move s (rchkStep s)
  | timeout (hp : s.phase = .rx ∨ s.phase = .hdr ∨ s.phase = .pay ∨ s.phase = .stoprd) (hq : s.rx = [])
      (ht : s.toEn = true) : Move s (finish .transportTimeout s)
  | pollEmpty (hp : s.phase = .poll) (hq : s.rx = []) : Move s (pollEmptyStep s)
  | token (r : Byte) (rest : List Byte) (i : Instr)
      (hp : s.phase = .poll ∨ s.phase = .hdr ∨ s.phase = .pay ∨ s.phase = .stoprd) (hq : s.rx = r :: rest)
      (hi : decode (tokenOf s r).1 (tokenOf s r).2 = .ok i) : Move s (execState i { s with rx := rest })
  | check (hp : s.phase = .check) : Move s (checkStep s)
  | emit (hp : s.phase = .emit) : Move s (emitStep s)
  | deliver (b : Byte) : Move s { s with rx := s.rx ++ [b] }
  | powerOn : Move s (powerOnReset s)

/-- What a fetched step leaves. -/
def settle : Fetched → State
  | .run i s => execState i s
  | .done s => s

@[simp] theorem settle_run (i : Instr) (s : State) : settle (.run i s) = execState i s := rfl

@[simp] theorem settle_done (s : State) : settle (.done s) = s := rfl

theorem step_eq (s : State) : step s = .next (settle (fetch s)) := by
  unfold step
  cases fetch s with
  | run i t => exact exec_eq i t
  | done t => rfl

theorem move_present {s : State} {f : Format} {w : Word} (hf : f = .ctrl ∨ f = .statusWrite) :
    Move s (settle (present f w (respond false 0 s))) := by
  unfold present
  split
  next i h => exact .hostInstr f w i hf h
  next => exact .acknowledge

theorem move_hostAccess (a : Offset) (rq : Request) (s : State) : Move s (settle (hostAccess a rq s)) := by
  unfold hostAccess
  split
  next hl =>
    split
    · exact .read _
    · split
      · exact move_present (.inl rfl)
      · split
        · exact move_present (.inr rfl)
        · refine .write _ _ ?_ (by have := a.isLt; omega)
          simp [legalAccess] at hl; exact hl.2
  next => exact .busError

theorem move_takeToken {s : State} {r : Byte} {rest : List Byte}
    (hp : s.phase = .poll ∨ s.phase = .hdr ∨ s.phase = .pay ∨ s.phase = .stoprd) (hq : s.rx = r :: rest) :
    Move s (settle (takeToken r rest s)) := by
  unfold takeToken present
  have known : ∃ i, decode (tokenOf s r).1 (tokenOf s r).2 = .ok i := by
    unfold tokenOf completesStop
    (repeat' split) <;> simp_all [decode, decodeByte_setWidth]
  obtain ⟨i, hi⟩ := known
  rw [hi]
  exact .token r rest i hp hq hi

theorem move_engineTurn (ready up : Bool) (s : State) : Move s (settle (engineTurn ready up s)) := by
  have waits (hp : s.phase = .rx ∨ s.phase = .hdr ∨ s.phase = .pay ∨ s.phase = .stoprd) (hq : s.rx = []) :
      Move s (readWaits up s) := by
    rcases readWaits_cases up s with ⟨ht, -, e⟩ | e
    · rw [e]; exact .timeout hp hq ht
    · rw [e]; exact .still
  unfold engineTurn
  split
  next hp => exact .still
  next hp => exact .ck hp
  next hp =>
    show Move s (if ready then txStep s else s)
    split
    · exact .transmit hp
    · exact .still
  next hp =>
    split
    next hq => exact waits (.inl hp) hq
    next r rest hq => exact .receive r rest hp hq
  next hp => exact .rchk hp
  next hp =>
    split
    next hq => exact .pollEmpty hp hq
    next r rest hq => exact move_takeToken (.inl hp) hq
  next hp =>
    split
    next hq => exact waits (.inr (.inl hp)) hq
    next r rest hq => exact move_takeToken (.inr (.inl hp)) hq
  next hp =>
    split
    next hq => exact waits (.inr (.inr (.inl hp))) hq
    next r rest hq => exact move_takeToken (.inr (.inr (.inl hp))) hq
  next hp =>
    split
    next hq => exact waits (.inr (.inr (.inr hp))) hq
    next r rest hq => exact move_takeToken (.inr (.inr (.inr hp))) hq
  next hp => exact .check hp
  next hp => exact .emit hp

theorem move_fetchEvent (e : Event) (s : State) : Move s (settle (fetchEvent e s)) := by
  cases e with
  | host a rq => exact move_hostAccess a rq s
  | bus addr rq =>
    show Move s (settle (busAccess addr rq s))
    unfold busAccess
    split
    · exact move_hostAccess _ rq s
    · exact .still
  | engine ready up => exact move_engineTurn ready up s
  | deliver b => exact .deliver b
  | powerOn => exact .powerOn

/-- All a step can do: nothing when no step is to come, or one move from the state with that step taken off. -/
theorem step_cases {s t : State} (h : step s = .next t) :
    (s.script = [] ∧ t = s) ∨ ∃ e rest, s.script = e :: rest ∧ Move { s with script := rest } t := by
  rw [step_eq] at h
  cases h
  unfold fetch
  split
  next hs => exact .inl ⟨hs, rfl⟩
  next e rest hs => exact .inr ⟨e, rest, hs, move_fetchEvent e _⟩

/-- The step an event makes, when it is the next to come. -/
theorem step_of_script {s : State} {e : Event} {rest : List Event} (h : s.script = e :: rest) :
    step s = .next (settle (fetchEvent e { s with script := rest })) := by
  rw [step_eq]; unfold fetch; rw [h]

end Sys2Proof.Machine
end

