-- ==== Sys2Proof/Laws/Turn.lean ====
section
/-! SUPPORT. The engine's turn phase by phase, the raw bytes token by token, and the host's accesses kind by kind: the
equations from which runs are put together. -/

namespace Sys2Proof.Machine

variable {s : State} {ready up : Bool} {r : Byte} {rest : List Byte}

/-! ## Turns -/

theorem step_engine {later : List Event} (h : s.script = .engine ready up :: later) :
    step s = .next (settle (engineTurn ready up { s with script := later })) := step_of_script h

theorem step_host {a : Offset} {rq : Request} {later : List Event} (h : s.script = .host a rq :: later) :
    step s = .next (settle (hostAccess a rq { s with script := later })) := step_of_script h

theorem engineTurn_idle (hp : s.phase = .idle) : engineTurn ready up s = .done s := by simp [engineTurn, hp]

theorem engineTurn_ck (hp : s.phase = .ck) : engineTurn ready up s = .done (ckStep s) := by simp [engineTurn, hp]

theorem engineTurn_tx (hp : s.phase = .tx) :
    engineTurn ready up s = .done (if ready then txStep s else s) := by simp [engineTurn, hp]

theorem engineTurn_rx (hp : s.phase = .rx) (hq : s.rx = r :: rest) :
    engineTurn ready up s = .done (rxStep r { s with rx := rest }) := by
  unfold engineTurn; rw [hp]; simp only [hq]

theorem engineTurn_rchk (hp : s.phase = .rchk) : engineTurn ready up s = .done (rchkStep s) := by
  simp [engineTurn, hp]

theorem engineTurn_pollEmpty (hp : s.phase = .poll) (hq : s.rx = []) :
    engineTurn ready up s = .done (pollEmptyStep s) := by
  unfold engineTurn; rw [hp]; simp only [hq]

theorem engineTurn_wait (hp : s.phase = .rx ∨ s.phase = .hdr ∨ s.phase = .pay ∨ s.phase = .stoprd)
    (hq : s.rx = []) : engineTurn ready up s = .done (readWaits up s) := by
  rcases hp with hp | hp | hp | hp <;> (unfold engineTurn; rw [hp]; simp only [hq])

theorem engineTurn_token (hp : s.phase = .poll ∨ s.phase = .hdr ∨ s.phase = .pay ∨ s.phase = .stoprd)
    (hq : s.rx = r :: rest) : engineTurn ready up s = takeToken r rest s := by
  rcases hp with hp | hp | hp | hp <;> (unfold engineTurn; rw [hp]; simp only [hq])

theorem engineTurn_check (hp : s.phase = .check) : engineTurn ready up s = .done (checkStep s) := by
  simp [engineTurn, hp]

theorem engineTurn_emit (hp : s.phase = .emit) : engineTurn ready up s = .done (emitStep s) := by
  simp [engineTurn, hp]

/-! ## Tokens -/

/-- A raw byte that decodes to an instruction is run, less that byte. -/
theorem takeToken_of_decode {i : Instr} (hi : decode (tokenOf s r).1 (tokenOf s r).2 = .ok i) :
    takeToken r rest s = .run i { s with rx := rest } := by
  unfold takeToken present; rw [hi]

theorem token_marker (hp : s.phase = .poll) : takeToken markerByte rest s = .run .marker { s with rx := rest } :=
  takeToken_of_decode (by simp [tokenOf, hp, decode, decodeByte_setWidth])

theorem token_unexpected (hp : s.phase = .poll) (hr : r ≠ markerByte) :
    takeToken r rest s = .run (.unexpected r) { s with rx := rest } :=
  takeToken_of_decode (by simp [tokenOf, hp, decode, decodeByte_setWidth, hr])

theorem token_stopb (hp : s.phase = .stoprd) : takeToken r rest s = .run (.stopb r) { s with rx := rest } :=
  takeToken_of_decode (by simp [tokenOf, hp, decode, decodeByte_setWidth])

theorem token_stop (hc : completesStop s r = true) :
    takeToken r rest s = .run (.stop (logicalByte s r)) { s with rx := rest } := by
  have hp : s.phase = .hdr := by simp [completesStop] at hc; exact hc.1
  have hb : logicalByte s r = s.stopCode := by simp [completesStop] at hc; exact hc.2.2.2
  exact takeToken_of_decode (by simp [tokenOf, hp, hc, decode, decodeByte_setWidth, hb])

theorem token_esc (hp : s.phase = .hdr ∨ s.phase = .pay) (he : s.esc = false) :
    takeToken escByte rest s = .run .esc { s with rx := rest } := by
  have hc : completesStop s escByte = false := by simp [completesStop, he]
  rcases hp with hp | hp <;>
    exact takeToken_of_decode (by simp [tokenOf, hp, hc, he, decode, decodeByte_setWidth])

theorem token_lit (hp : s.phase = .hdr ∨ s.phase = .pay) (he : s.esc = false) (hr : r ≠ escByte)
    (hc : completesStop s r = false) : takeToken r rest s = .run (.lit r) { s with rx := rest } := by
  rcases hp with hp | hp <;>
    exact takeToken_of_decode (by simp [tokenOf, hp, hc, he, hr, decode, decodeByte_setWidth])

theorem token_escd (hp : s.phase = .hdr ∨ s.phase = .pay) (he : s.esc = true)
    (hc : completesStop s r = false) : takeToken r rest s = .run (.escd r) { s with rx := rest } := by
  rcases hp with hp | hp <;>
    exact takeToken_of_decode (by simp [tokenOf, hp, hc, he, decode, decodeByte_setWidth])

/-! ## Meanings of the frame tokens in their phase -/

theorem execState_lit (hp : s.phase = .hdr ∨ s.phase = .pay) (he : s.esc = false) (b : Byte) :
    execState (.lit b) s = acceptLogical b s := by
  rcases hp with hp | hp <;> simp [execState, exec, execLit, inFrame, hp, he]

theorem execState_escd (hp : s.phase = .hdr ∨ s.phase = .pay) (he : s.esc = true) (r : Byte) :
    execState (.escd r) s = acceptLogical (unescape r) { s with esc := false } := by
  rcases hp with hp | hp <;> simp [execState, exec, execEscd, inFrame, hp, he]

theorem execState_esc (hp : s.phase = .hdr ∨ s.phase = .pay) (he : s.esc = false) :
    execState .esc s = { s with esc := true } := by
  rcases hp with hp | hp <;> simp [execState, exec, execEsc, inFrame, hp, he]

theorem execState_stop (hp : s.phase = .hdr) (h2 : s.hcnt = 2) :
    execState (.stop s.stopCode) s = enterStop (storeHdr s.stopCode { s with esc := false }) := by
  simp [execState, exec, execStop, hp, h2]

theorem execState_marker (hp : s.phase = .poll) : execState .marker s = startFrame s := by
  simp [execState, exec, execMarker, hp]

/-- A logical byte in the header. -/
theorem acceptLogical_hdr (hp : s.phase = .hdr) (b : Byte) : acceptLogical b s = acceptHdr b s := by
  simp only [acceptLogical, hp]

/-- A logical byte in the payload. -/
theorem acceptLogical_pay (hp : s.phase = .pay) (b : Byte) : acceptLogical b s = acceptPay b s := by
  simp only [acceptLogical, hp]

/-- Outside an escape pair clearing eng.esc changes nothing. -/
theorem clearEsc_eq (he : s.esc = false) : ({ s with esc := false } : State) = s := by
  obtain ⟨⟩ := s; simp only at he; subst he; rfl

/-! ## What a turn does outside the engine -/

/-- All an engine turn can do to the streams and to TXBUF and RXBUF: nothing; take a byte as a token; take a byte of a
response; send a byte of the packet (R44, R163, R164, R190). -/
theorem engineTurn_cases {t : State} (ht : t = settle (engineTurn ready up s)) :
    (t.rx = s.rx ∧ t.tx = s.tx ∧ t.mem = s.mem ∧ t.boots = s.boots) ∨
    (∃ b, (s.phase = .poll ∨ s.phase = .hdr ∨ s.phase = .pay ∨ s.phase = .stoprd) ∧
      s.rx = b :: t.rx ∧ t.tx = s.tx ∧ t.mem = s.mem ∧ t.boots = s.boots) ∨
    (∃ b q, s.phase = .rx ∧ s.rx = b :: q ∧ t = rxStep b { s with rx := q }) ∨
    (ready = true ∧ s.phase = .tx ∧ ∃ b, s.txpkt[s.tidx]? = some b ∧
      t.tx = s.tx ++ [b] ∧ t.rx = s.rx ∧ t.mem = s.mem ∧ t.boots = s.boots) := by
  have still (e : settle (engineTurn ready up s) = s) :
      t.rx = s.rx ∧ t.tx = s.tx ∧ t.mem = s.mem ∧ t.boots = s.boots := by
    rw [ht, e]; exact ⟨rfl, rfl, rfl, rfl⟩
  have waits (hp : s.phase = .rx ∨ s.phase = .hdr ∨ s.phase = .pay ∨ s.phase = .stoprd) (hq : s.rx = []) :
      t.rx = s.rx ∧ t.tx = s.tx ∧ t.mem = s.mem ∧ t.boots = s.boots := by
    rw [engineTurn_wait hp hq] at ht
    rcases readWaits_cases up s with ⟨-, -, e⟩ | e <;> rw [e] at ht <;> subst ht <;> exact ⟨rfl, rfl, rfl, rfl⟩
  have token (hp : s.phase = .poll ∨ s.phase = .hdr ∨ s.phase = .pay ∨ s.phase = .stoprd) {b : Byte}
      {q : List Byte} (hq : s.rx = b :: q) :
      s.rx = b :: t.rx ∧ t.tx = s.tx ∧ t.mem = s.mem ∧ t.boots = s.boots := by
    rw [engineTurn_token hp hq] at ht
    unfold takeToken present at ht
    split at ht
    next i _ =>
      obtain ⟨h1, h2, h3, h4⟩ := execState_outside i { s with rx := q }
      rw [ht, settle_run, h1, h2, h3, h4]; exact ⟨hq, rfl, rfl, rfl⟩
    next => rw [ht]; exact ⟨hq, rfl, rfl, rfl⟩
  have reads (hp : s.phase = .hdr ∨ s.phase = .pay ∨ s.phase = .stoprd) :
      (t.rx = s.rx ∧ t.tx = s.tx ∧ t.mem = s.mem ∧ t.boots = s.boots) ∨
      ∃ b, s.rx = b :: t.rx ∧ t.tx = s.tx ∧ t.mem = s.mem ∧ t.boots = s.boots := by
    match hq : s.rx with
    | [] => exact .inl (hq ▸ waits (.inr hp) hq)
    | b :: q => exact .inr ⟨b, hq ▸ token (.inr hp) hq⟩
  by_cases hr : s.phase = .rx
  · match hq : s.rx with
    | [] => exact .inl (hq ▸ waits (.inl hr) hq)
    | b :: q => exact .inr (.inr (.inl ⟨b, q, hr, rfl, by rw [ht, engineTurn_rx hr hq, settle_done]⟩))
  by_cases hh : s.phase = .hdr ∨ s.phase = .pay ∨ s.phase = .stoprd
  · rcases reads hh with h | ⟨b, h⟩
    · exact .inl h
    · exact .inr (.inl ⟨b, .inr hh, h⟩)
  by_cases hp : s.phase = .poll
  · match hq : s.rx with
    | [] =>
      left; rw [engineTurn_pollEmpty hp hq] at ht; subst ht; exact ⟨hq, rfl, rfl, rfl⟩
    | b :: q => exact .inr (.inl ⟨b, .inl hp, hq ▸ token (.inl hp) hq⟩)
  by_cases hx : s.phase = .tx
  · rw [engineTurn_tx hx, settle_done] at ht
    cases ready with
    | false => left; rw [ht]; exact ⟨rfl, rfl, rfl, rfl⟩
    | true =>
      rw [if_pos rfl] at ht
      unfold txStep at ht
      split at ht
      next b hb => rw [ht]; exact .inr (.inr (.inr ⟨rfl, hx, b, hb, rfl, rfl, rfl, rfl⟩))
      next => left; rw [ht]; exact ⟨rfl, rfl, rfl, rfl⟩
  left
  cases hs : s.phase with
  | idle => exact still (by rw [engineTurn_idle hs]; rfl)
  | ck => rw [ht, engineTurn_ck hs, settle_done]; unfold ckStep; split <;> exact ⟨rfl, rfl, rfl, rfl⟩
  | rchk => rw [ht, engineTurn_rchk hs]; exact ⟨rfl, rfl, rfl, rfl⟩
  | check =>
    rw [ht, engineTurn_check hs, settle_done]
    rcases checkStep_cases s with ⟨-, e⟩ | ⟨-, e⟩ <;> rw [e]
    · exact ⟨rfl, rfl, rfl, rfl⟩
    · exact endTryOrPoll_outside _ _
  | emit =>
    rw [ht, engineTurn_emit hs, settle_done]
    rcases emitStep_cases s with ⟨-, e⟩ | ⟨-, -, e⟩ | ⟨-, -, e⟩ <;> rw [e]
    · exact ⟨rfl, rfl, rfl, rfl⟩
    · exact endTryOrPoll_outside _ _
    · exact ⟨rfl, rfl, rfl, rfl⟩
  | tx => exact absurd hs hx
  | rx => exact absurd hs hr
  | poll => exact absurd hs hp
  | hdr => exact absurd (.inl hs) hh
  | pay => exact absurd (.inr (.inl hs)) hh
  | stoprd => exact absurd (.inr (.inr hs)) hh

/-! ## Runs -/

/-- A run of one step more starts with that step. -/
theorem run_succ {s t : State} (h : step s = .next t) (n : Nat) :
    Host.Core.run Sys2Proof.core (n + 1) s = Host.Core.run Sys2Proof.core n t := by
  have h' : Sys2Proof.core.step s = .next t := h
  simp only [Host.Core.run, h']

/-- Two runs one after the other. -/
theorem run_add {s t : State} {m : Nat} (h : Host.Core.run Sys2Proof.core m s = .next t) (n : Nat) :
    Host.Core.run Sys2Proof.core (m + n) s = Host.Core.run Sys2Proof.core n t := by
  induction m generalizing s with
  | zero => rw [Nat.zero_add]; cases h; rfl
  | succ m ih =>
    rw [Nat.succ_add, run_succ (step_eq s)]
    exact ih ((run_succ (step_eq s) m).symm.trans h)

/-! ## Host accesses -/

theorem hostAccess_illegal {a : Offset} {rq : Request} (h : legalAccess a rq = false) :
    hostAccess a rq s = .done (respond true 0 s) := by simp [hostAccess, h]

theorem hostAccess_read {a : Offset} (h4 : a.toNat % 4 = 0) :
    hostAccess a ⟨4, .read⟩ s = .done (hostRead a.toNat s) := by simp [hostAccess, legalAccess, h4]

theorem hostAccess_ctrl (w : Word) :
    hostAccess 0x000#12 ⟨4, .write w⟩ s = .run (decodeCtrl w) (respond false 0 s) := by
  simp [hostAccess, legalAccess, offCtrl, present, decode]

theorem hostAccess_status (w : Word) :
    hostAccess 0x004#12 ⟨4, .write w⟩ s = present .statusWrite w (respond false 0 s) := by
  simp [hostAccess, legalAccess, offCtrl, offStatus]

theorem hostAccess_write {a : Offset} (h4 : a.toNat % 4 = 0) (h8 : 8 ≤ a.toNat) (w : Word) :
    hostAccess a ⟨4, .write w⟩ s = .done (hostWrite a.toNat w (respond false 0 s)) := by
  have h0 : a.toNat ≠ offCtrl := by simp only [offCtrl]; omega
  have h1 : a.toNat ≠ offStatus := by simp only [offStatus]; omega
  simp [hostAccess, legalAccess, h4, h0, h1]

/-- All a host access can do (R71, R72, R77-R79, R250, R256). -/
theorem hostAccess_cases (a : Offset) (rq : Request) (s : State) :
    settle (hostAccess a rq s) = respond true 0 s ∨
    (rq = ⟨4, .read⟩ ∧ settle (hostAccess a rq s) = hostRead a.toNat s) ∨
    (∃ v, rq = ⟨4, .write v⟩ ∧ a.toNat % 4 = 0 ∧
      settle (hostAccess a rq s) = hostWrite a.toNat v (respond false 0 s)) ∨
    (∃ i, settle (hostAccess a rq s) = execState i (respond false 0 s)) ∨
    settle (hostAccess a rq s) = respond false 0 s := by
  obtain ⟨size, access⟩ := rq
  have presented (f : Format) (w : Word) : (∃ i, settle (present f w (respond false 0 s)) =
      execState i (respond false 0 s)) ∨ settle (present f w (respond false 0 s)) = respond false 0 s := by
    unfold present
    split
    next i _ => exact .inl ⟨i, rfl⟩
    next => exact .inr rfl
  cases hl : legalAccess a ⟨size, access⟩ with
  | false => left; rw [hostAccess_illegal hl]; rfl
  | true =>
    obtain ⟨rfl, h4⟩ : size = 4 ∧ a.toNat % 4 = 0 := of_decide_eq_true hl
    right
    cases access with
    | read => left; rw [hostAccess_read h4]; exact ⟨rfl, rfl⟩
    | write v =>
      right
      simp only [hostAccess, hl, if_true]
      split
      · exact .inr (presented _ _)
      · split
        · exact .inr (presented _ _)
        · exact .inl ⟨v, rfl, h4, rfl⟩

/-- All an access by bus address can do (R71): nothing, or the access at its offset in the window. -/
theorem busAccess_cases (addr : Nat) (rq : Request) (s : State) :
    settle (busAccess addr rq s) = s ∨
    ∃ a : Offset, addr = s.params.base + a.toNat ∧ busAccess addr rq s = hostAccess a rq s := by
  by_cases h : s.params.base ≤ addr ∧ addr < s.params.base + 4096
  · right
    refine ⟨BitVec.ofNat 12 (addr - s.params.base), ?_, by simp [busAccess, busOffset, h]⟩
    rw [BitVec.toNat_ofNat, Nat.mod_eq_of_lt (by omega)]; omega
  · left; simp [busAccess, busOffset, h]

/-- No host read touches the streams or the byte stores. -/
theorem hostRead_outside (a : Nat) (s : State) :
    (hostRead a s).rx = s.rx ∧ (hostRead a s).tx = s.tx ∧ (hostRead a s).mem = s.mem ∧
      (hostRead a s).boots = s.boots := by
  unfold hostRead
  rcases readEffect_cases a s with ⟨-, e⟩ | ⟨-, e⟩ | ⟨-, -, e⟩ <;> rw [e] <;> exact ⟨rfl, rfl, rfl, rfl⟩

end Sys2Proof.Machine
end

