-- ==== Sys2Proof/Tests/Slice0.lean ====
section
/-! SUPPORT. The model's own tests: the WellFormed smoke test, words written out from the spec decoded, one step per
instruction against the spec's examples (95_test_vectors, and the examples in the rules), and for every statement of
Certificates/Slice0/Obligations.lean that has hypotheses a state and operands that meet them, clause by clause. -/

namespace Sys2Proof.Tests

open Sys2Proof.Machine

/-! ## Helpers -/

/-- The machine at reset with the least FIFO depths R7 admits, BASE 0x1000. -/
def idleState : State := { State.reset with params := ⟨125, 1, 0x1000⟩ }

/-- An operation in a phase, the engine's turn to come. -/
def running (op : Op) (phase : Phase) : State :=
  { idleState with busy := true, op := op, phase := phase, script := [.engine true false] }

/-- Bytes at consecutive addresses. -/
def cells (base : Nat) (bs : List Byte) : Memory := bs.zipIdx.map fun c => (base + c.2, c.1)

/-- What holds of the next state, if there is one. -/
def after {α : Type} (o : Host.Outcome State Fault Refusal) (f : State → α) : Option α :=
  match o with
  | .next t => some (f t)
  | .fault _ => none
  | .refused _ => none

/-- A window offset. -/
def off (n : Nat) : Offset := BitVec.ofNat 12 n

/-- A host write of the idle machine. -/
def writing (a : Offset) (v : Word) : State := { idleState with script := [.host a ⟨4, .write v⟩] }

/-- A host read of the idle machine. -/
def reading (a : Offset) : State := { idleState with script := [.host a ⟨4, .read⟩] }

/-! ## WellFormed smoke: ill-formed terms are refused -/

theorem smoke_badOpLow_below : Instr.wf (.badOpLow 5#4) = false := by decide
theorem smoke_badOpLow_above : Instr.wf (.badOpLow 8#4) = false := by decide
theorem smoke_badOpHigh : Instr.wf (.badOpHigh 7#4) = false := by decide
theorem smoke_unexpected_marker : Instr.wf (.unexpected 0x7E#8) = false := by decide
theorem smoke_lit_escape : Instr.wf (.lit 0x7D#8) = false := by decide

/-! ## Decoding: words written out bit by bit from R101-R103, R116-R119, R198, R256 -/

theorem decode_nop : decode .ctrl 0b11111111111111111111110011110000#32 = .ok .nop := by decide
theorem decode_cksum : decode .ctrl 0b0001#32 = .ok .cksum := by decide
theorem decode_verify : decode .ctrl 0b0010#32 = .ok .verify := by decide
theorem decode_sendCmd : decode .ctrl 0b0011#32 = .ok .sendCmd := by decide
theorem decode_tryDecode : decode .ctrl 0b0100#32 = .ok .tryDecode := by decide
theorem decode_drain : decode .ctrl 0b0101#32 = .ok .drain := by decide
theorem decode_badOpLow : decode .ctrl 0b0110#32 = .ok (.badOpLow 6#4) := by decide
theorem decode_badOpHigh : decode .ctrl 0b1111#32 = .ok (.badOpHigh 15#4) := by decide
theorem decode_abort : decode .ctrl 0b0100001111#32 = .ok .abort := by decide
theorem decode_srst : decode .ctrl 0b1100000001#32 = .ok .srst := by decide
theorem decode_clrwi : decode .statusWrite 0b100000000#32 = .ok .clrwi := by decide
theorem decode_marker : decode .rxPoll 0b01111110#32 = .ok .marker := by decide
theorem decode_unexpected : decode .rxPoll 0b01111101#32 = .ok (.unexpected 0x7D#8) := by decide
theorem decode_esc : decode .rxFrame 0b01111101#32 = .ok .esc := by decide
theorem decode_lit : decode .rxFrame 0b01111110#32 = .ok (.lit 0x7E#8) := by decide
theorem decode_escd : decode .rxEscaped 0b01011110#32 = .ok (.escd 0x5E#8) := by decide
theorem decode_stopb : decode .rxStoprd 0b01111101#32 = .ok (.stopb 0x7D#8) := by decide
theorem decode_stop : decode (.hdrByte2 0x50#8) 0b01010000#32 = .ok (.stop 0x50#8) := by decide
theorem decode_status_zero : decode .statusWrite 0#32 = .error .statusWithoutClear := by decide
theorem decode_wide_byte : decode .rxPoll 0x17E#32 = .error .widerThanAByte := by decide
theorem decode_not_stop : decode (.hdrByte2 0x50#8) 0x70#32 = .error .notTheStopCode := by decide

/-! ## One step each -/

/-- V-H1 while an operation runs (R252). -/
theorem test_nop : after (exec .nop (running .drain .poll)) statusWord = some 0x00000001#32 := by decide

/-- The example of R143. -/
theorem test_cksum :
    after (step { running .cksum .ck with mem := cells 0x200 [1, 2, 3], txLen := 3 })
      (fun t => (statusWord t, ckregWord t)) = some (0x00000002#32, 0x00000006#32) := by decide

/-- V-H16: TX_LEN = 0x3FF gives BAD_ARG at the start. -/
theorem test_cksum_badArg : after (exec .cksum { idleState with txLen := 0x3FF }) statusWord = some 0x00000092#32 := by
  decide

/-- The mismatch example of R144, P1's last check. -/
theorem test_verify :
    after (step { running .verify .ck with mem := cells 0x200 [0, 7, 1, 2, 3], txLen := 5 })
      (fun t => (statusWord t, ckregWord t)) = some (0x00000052#32, 0x00070006#32) := by decide

/-- R251: VERIFY needs two bytes. -/
theorem test_verify_short : after (exec .verify { idleState with txLen := 1 }) statusWord = some 0x00000092#32 := by
  decide

/-- V-C2: the packet 00 15 12 01 02 and TXCK. -/
theorem test_sendCmd :
    after (exec .sendCmd { idleState with cmd := 0x12, mem := cells 0x200 [1, 2], txLen := 2, respLen := 1 })
      (fun t => (t.txpkt, t.txck, statusWord t)) = some ([0x00, 0x15, 0x12, 0x01, 0x02], 0x0015, 0x00000001#32) := by
  decide

/-- V-C11: RESP_LEN = 509. -/
theorem test_sendCmd_badArg :
    after (exec .sendCmd { idleState with cmd := 0x12, txLen := 2, respLen := 509 }) (fun t => (statusWord t, t.txck)) =
      some (0x00000092#32, 0) := by decide

/-- P4: the start clears NFRAMES. -/
theorem test_tryDecode :
    after (exec .tryDecode { idleState with nframes := 1, done := true, result := .frameDecoded })
      (fun t => (t.nframes, statusWord t)) = some (0, 0x00000001#32) := by decide

/-- V-D1: DRAIN with no byte finishes OK; TRY_DECODE (V-S17) NO_DATA. -/
theorem test_drain_empty :
    after (step (running .drain .poll)) statusWord = some 0x00000002#32 ∧
    after (step (running .tryDecode .poll)) statusWord = some 0x00000032#32 := by decide

/-- R250: DRAIN while busy is dropped. -/
theorem test_drain_busy : after (exec .drain (running .tryDecode .hdr)) statusWord = some 0x00000101#32 := by decide

/-- V-H3. -/
theorem test_badOpLow : after (exec (.badOpLow 7#4) idleState) statusWord = some 0x00000082#32 := by decide

/-- P5: reserved OP 9. -/
theorem test_badOpHigh :
    after (exec (.badOpHigh 9#4) { idleState with done := true, result := .aborted }) statusWord =
      some 0x00000082#32 := by decide

/-- The example of R254. -/
theorem test_abort :
    after (exec .abort { running .tryDecode .hdr with hcnt := 1 }) (fun t => (statusWord t, frameAuxWord t)) =
      some (0x000000A2#32, 0x00010000#32) := by decide

/-- R254: ABORT when idle leaves DONE and RESULT as they were. -/
theorem test_abort_idle :
    after (exec .abort { idleState with done := true, result := .noData }) statusWord = some 0x00000032#32 := by decide

/-- The example of R255. -/
theorem test_srst :
    after (exec .srst { running .drain .emit with stopCode := 0x80, sample := [1, 2] })
      (fun t => (statusWord t, cfgWord t, fifoLvlWord t)) = some (0x00000000#32, 0x00005000#32, 0x00000000#32) := by
  decide

/-- P5: WR_IGNORED cleared after the abort. -/
theorem test_clrwi :
    after (step { writing 0x004#12 0x100#32 with done := true, result := .aborted, wrIgnored := true }) statusWord =
      some 0x000000A2#32 := by decide

/-- R194. -/
theorem test_marker :
    after (exec .marker { running .drain .poll with hcnt := 8, plen := 2, pcnt := 2, esc := true })
      (fun t => (t.phase, t.hcnt, t.plen, t.pcnt, t.esc)) = some (.hdr, 0, 0, 0, false) := by decide

/-- V-S15. -/
theorem test_unexpected :
    after (step { running .tryDecode .poll with rx := [0x55] })
      (fun t => (statusWord t, frameAuxWord t, t.unexpCnt, t.rx)) = some (0x00000042#32, 0x00000055#32, 1, []) := by
  decide

/-- R192, R195: DRAIN counts it and stays in POLL; 0x7D is unexpected like any other. -/
theorem test_unexpected_drain :
    after (exec (.unexpected 0x7D#8) (running .drain .poll)) (fun t => (statusWord t, t.unexpCnt, t.phase)) =
      some (0x00000001#32, 1, .poll) := by decide

/-- R197: no logical byte. -/
theorem test_esc :
    after (step { running .drain .pay with rx := [0x7D, 0x5E], plen := 2 }) (fun t => (t.esc, t.pcnt, t.rx)) =
      some (true, 0, [0x5E]) := by decide

/-- V-S18: a raw 0x7E is a header byte. -/
theorem test_lit_header :
    after (step { running .tryDecode .hdr with rx := [0x7E], hcnt := 2 }) (fun t => (t.hdr[2], t.hcnt, t.phase)) =
      some (0x7E, 3, .hdr) := by decide

/-- R201: the last payload byte, stored as it is. -/
theorem test_lit_payload :
    after (step { running .tryDecode .pay with rx := [0xFF], hcnt := 8, plen := 2, pcnt := 1 })
      (fun t => (t.pay, t.pcnt, t.phase)) = some ([(1, 0xFF)], 2, .check) := by decide

/-- R197: 7D 7E is 0x7E, OR and not XOR. -/
theorem test_escd :
    after (step { running .tryDecode .pay with rx := [0x7E], esc := true, hcnt := 8, plen := 2 })
      (fun t => (t.pay, t.esc)) = some ([(0, 0x7E)], false) := by decide

/-- V-S13: the stop code sent as 7D 50 is the byte 0x70. -/
theorem test_escd_header :
    after (step { running .tryDecode .hdr with rx := [0x50], esc := true, hcnt := 2 })
      (fun t => (t.hdr[2], t.hcnt, t.phase)) = some (0x70, 3, .hdr) := by decide

/-- V-S12: the first raw byte, 7D taken as it is. -/
theorem test_stopb_echo :
    after (step { running .tryDecode .stoprd with rx := [0x7D, 0x7E], hcnt := 3 })
      (fun t => (t.aux1, t.scnt, t.phase)) = some (0x7D, 1, .stoprd) := by decide

/-- V-S12: the second. -/
theorem test_stopb_channel :
    after (step { running .tryDecode .stoprd with rx := [0x7E], hcnt := 3, aux1 := 0x7D, scnt := 1 })
      (fun t => (frameAuxWord t, t.phase, t.kind)) = some (0x00037E7D#32, .emit, .stop) := by decide

/-- V-S2: the third header byte. -/
theorem test_stop :
    after (step { running .drain .hdr with rx := [0x50, 0x19], hcnt := 2 })
      (fun t => (hdrLoWord t, t.phase, t.rx)) = some (0x00500000#32, .stoprd, [0x19]) := by decide

/-- R211: with STOP_CODE = 0x70 the pair 7D 50 is a stop. -/
theorem test_stop_escaped :
    after (step { running .drain .hdr with rx := [0x50], hcnt := 2, esc := true, stopCode := 0x70 })
      (fun t => (t.phase, t.esc)) = some (.stoprd, false) := by decide

/-- V-S1: HDR and the payload FF FF check. -/
theorem test_check :
    after (step { running .tryDecode .check with
        hdr := #v[2, 5, 0, 6, 1, 0, 0, 0], hcnt := 8, plen := 2, pcnt := 2, pay := [(0, 0xFF), (1, 0xFF)] })
      (fun t => (ckregWord t, t.phase)) = some (0x02050205#32, .emit) := by decide

/-- V-S1: what is popped. -/
theorem test_emit :
    after (step { running .tryDecode .emit with
        hdr := #v[2, 5, 0, 6, 1, 0, 0, 0], hcnt := 8, plen := 2, pcnt := 2, pay := [(0, 0xFF), (1, 0xFF)] })
      (fun t => (statusWord t, t.sample.map sampleWord, t.fdesc.map fdescWord)) =
      some (0x00000012#32, [0x8000FFFF#32], [0x81000101#32]) := by decide

/-- V-C3: the length field is wrong. -/
theorem test_rchk :
    after (step { running .sendCmd .rchk with
        mem := cells 0x400 [0x00, 0x16, 0x12, 0x02, 0x02], respLen := 1, rneed := 5, rxCnt := 5, tidx := 0 })
      (fun t => (statusWord t, ckregWord t)) = some (0x00000072#32, 0x00160016#32) := by decide

/-- V-H15. -/
theorem test_write_cfg :
    after (step (writing 0x008#12 0xFFFFFFFF#32)) cfgWord = some 0x0000FF01#32 := by decide

/-- V-H17: little-endian lanes. -/
theorem test_txbuf_lanes :
    after (step (writing 0x200#12 0x44332211#32)) (fun t => (readValue 0x200 t, txbuf t 0)) =
      some (0x44332211#32, 0x11#8) := by decide

/-- The response 00 15 12 01 02 of R160's example, read by the lanes of R76. -/
theorem test_rxbuf_lanes :
    after (step { reading 0x400#12 with mem := cells 0x400 [0x00, 0x15, 0x12, 0x01, 0x02] }) (fun t => t.resp) =
      some (some ⟨false, 0x01121500#32⟩) := by decide

/-- V-H11: a misaligned read of SAMPLE is a bus error and pops nothing. -/
theorem test_bus_error :
    after (step { idleState with sample := [7], script := [.host 0x041#12 ⟨4, .read⟩] }) (fun t => (t.resp, t.sample)) =
      some (some ⟨true, 0⟩, [7]) := by decide

/-! ## Witnesses: every hypothesis of a statement can be met -/

theorem witness_DecodeOfEncodeIsTheInstruction :
    (Instr.badOpLow 6#4).wf = true ∧ (Instr.badOpLow 7#4).wf = true ∧ (Instr.badOpHigh 8#4).wf = true ∧
    (Instr.badOpHigh 15#4).wf = true ∧ (Instr.unexpected 0x7F#8).wf = true ∧ (Instr.lit 0x7C#8).wf = true ∧
    (Instr.stop 0xFF#8).wf = true := by decide

theorem witness_DecodedWordHasItsRowsFixedBits : decode .ctrl 0x10F#32 = .ok .abort := by decide

theorem witness_CtrlWordSelectsExactlyOneRow :
    (0x200#32).getLsbD 9 = true ∧ ((0x100#32).getLsbD 9 = false ∧ (0x100#32).getLsbD 8 = true) ∧
    ((0x00F#32).getLsbD 9 = false ∧ (0x00F#32).getLsbD 8 = false) ∧
    0xFFFFFCF0#32 &&& 0x30F#32 = 0#32 &&& 0x30F#32 := by decide

theorem witness_StepRunsThePresentedInstruction :
    fetch (writing 0x000#12 5#32) = .run .drain { idleState with resp := some ⟨false, 0⟩ } ∧
    (writing 0x000#12 5#32).script = [.host 0x000#12 ⟨4, .write 5#32⟩] ∧
    (decode .statusWrite 0x100#32 = .ok .clrwi ∧
      (writing 0x004#12 0x100#32).script = [.host 0x004#12 ⟨4, .write 0x100#32⟩]) ∧
    (∀ p ∈ [Phase.poll, .hdr, .pay, .stoprd],
      decode (tokenOf (running .drain p) 0x00#8).1 (tokenOf (running .drain p) 0x00#8).2 =
        .ok (if p = .poll then .unexpected 0 else if p = .stoprd then .stopb 0 else .lit 0)) := by decide

/-- One state for each clause: phase, eng.esc, eng.hcnt and the byte. -/
theorem witness_RawByteIsTheTokenOfItsPhase :
    (running .drain .poll).script = [.engine true false] ∧ (running .drain .poll).phase = .poll ∧
    (running .drain .stoprd).phase = .stoprd ∧
    ((running .drain .hdr).phase = .hdr ∧ (running .drain .hdr).esc = false ∧ (running .drain .hdr).stopCode = 0x50) ∧
    (let s := { running .drain .hdr with hcnt := 2 };
      ¬(s.phase = .hdr ∧ s.hcnt = 2 ∧ 0x51#8 = s.stopCode) ∧ s.hcnt = 2 ∧ 0x50#8 = s.stopCode) ∧
    (let s := { running .drain .hdr with hcnt := 2, esc := true, stopCode := 0x70 };
      ¬(s.phase = .hdr ∧ s.hcnt = 2 ∧ 0x5F#8 ||| 0x20#8 = s.stopCode) ∧ s.esc = true ∧
      0x50#8 ||| 0x20#8 = s.stopCode) := by decide

theorem witness_PlacedTableWordIsRunNext :
    decodeTableWord 16 0x006 = some (.badOpLow 6#4) ∧ decodeTableWord 16 0x100 = some .abort ∧
    decodeTableWord 8 0x7E = some .marker ∧ decodeTableWord 8 0x7D = some .esc ∧
    decodeTableWord 8 0x50 = some (.stop 0x50#8) ∧ decodeTableWord 8 0 = some (.unexpected 0#8) := by decide

/-- The five things a CTRL write does, each with a word; busy and idle. -/
theorem witness_CtrlWriteDoesExactlyOneThing :
    (0x2FF#32).getLsbD 9 = true ∧ ((0x1FF#32).getLsbD 9 = false ∧ (0x1FF#32).getLsbD 8 = true) ∧
    ((0xF0#32).getLsbD 9 = false ∧ (0xF0#32).getLsbD 8 = false ∧ (0xF0#32).extractLsb' 0 4 = 0#4) ∧
    ((0x0F#32).getLsbD 9 = false ∧ (0x0F#32).getLsbD 8 = false ∧ (0x0F#32).extractLsb' 0 4 ≠ 0#4) ∧
    (writing 0x000#12 0x0F#32).busy = false ∧ { writing 0x000#12 0x0F#32 with busy := true }.busy = true := by decide

/-- Each argument check at both ends of its range. -/
theorem witness_OperationStartWhenIdle :
    idleState.busy = false ∧
    ({ idleState with txLen := 512 }.txLen.toNat ≤ 512 ∧ 512 < { idleState with txLen := 513 }.txLen.toNat) ∧
    ({ idleState with txLen := 1 }.txLen.toNat < 2 ∧ 2 ≤ { idleState with txLen := 2 }.txLen.toNat) ∧
    ({ idleState with respLen := 508 }.respLen.toNat ≤ 508 ∧ 508 < { idleState with respLen := 509 }.respLen.toNat) ∧
    8 ≤ (8#4).toNat ∧ 8 ≤ (15#4).toNat := by decide

theorem witness_StartWhileBusyIsDropped : (running .cksum .ck).busy = true := by decide

theorem witness_NopAbortAndClearIgnored : (running .drain .poll).busy = true ∧ idleState.busy = false := by decide

theorem witness_StatusWriteChangesOnlyWrIgnored :
    (writing 0x004#12 0xFFFFFEFF#32).script = [.host 0x004#12 ⟨4, .write 0xFFFFFEFF#32⟩] := by decide

theorem witness_PowerOnResetKeepsTransport :
    { running .drain .poll with script := [.powerOn] }.script = [.powerOn] := by decide

theorem witness_IllegalAccessIsABusErrorOnly :
    { idleState with script := [.host 0x004#12 ⟨1, .read⟩] }.script = [.host 0x004#12 ⟨1, .read⟩] ∧
    (⟨1, .read⟩ : Request).size ≠ 4 ∧ (0x002#12).toNat % 4 ≠ 0 ∧ (0xFFF#12).toNat % 4 ≠ 0 := by decide

/-- Reads at the first and last offsets of each range. -/
theorem witness_ReadAnswersTheRegisterLayout :
    ∀ a ∈ [0x000, 0x004, 0x008, 0x00C, 0x010, 0x014, 0x018, 0x01C, 0x020, 0x024, 0x028,
        0x02C, 0x030, 0x034, 0x038, 0x03C, 0x048, 0x1FC, 0x200, 0x3FC, 0x400, 0x5FC, 0x600, 0xFFC],
      (reading (off a)).script = [.host (off a) ⟨4, .read⟩] ∧ (off a).toNat % 4 = 0 :=
  fun a h => ⟨rfl, by revert a; decide⟩

theorem witness_ReadsPopOnlyTheFifos :
    (reading 0x040#12).sample = [] ∧ { reading 0x040#12 with sample := [1] }.sample = [1] ∧
    (reading 0x044#12).fdesc = [] ∧ { reading 0x044#12 with fdesc := [⟨0, 0, .stop⟩] }.fdesc = [⟨0, 0, .stop⟩] ∧
    (0x03C#12).toNat ≠ 0x040 ∧ (0x048#12).toNat ≠ 0x044 ∧ (0x044#12).toNat % 4 = 0 := by decide

theorem witness_WrittenRegisterReadsItsFieldBits :
    ∀ a ∈ [0x008, 0x00C, 0x010, 0x014],
      (writing (off a) 0xFFFFFFFF#32).busy = false ∧
      (writing (off a) 0xFFFFFFFF#32).script = [.host (off a) ⟨4, .write 0xFFFFFFFF#32⟩] :=
  fun _ _ => ⟨rfl, rfl⟩

theorem witness_TxbufWordIsLittleEndian :
    ∀ a ∈ [0x200, 0x3FC],
      Memory.wf (writing (off a) 0x44332211#32).mem ∧ (writing (off a) 0x44332211#32).busy = false ∧
      (writing (off a) 0x44332211#32).script = [.host (off a) ⟨4, .write 0x44332211#32⟩] ∧
      0x200 ≤ (off a).toNat ∧ (off a).toNat < 0x400 ∧ (off a).toNat % 4 = 0 :=
  fun a h => ⟨List.Pairwise.nil, rfl, rfl, by revert a; decide⟩

/-- Each register, and the first and last word of TXBUF. -/
theorem witness_WriteWhileBusyIsDropped :
    ∀ a ∈ [0x008, 0x00C, 0x010, 0x014, 0x200, 0x3FC],
      { writing (off a) 1#32 with busy := true }.busy = true ∧
      { writing (off a) 1#32 with busy := true }.script = [.host (off a) ⟨4, .write 1#32⟩] ∧
      (off a = 0x008#12 ∨ off a = 0x00C#12 ∨ off a = 0x010#12 ∨ off a = 0x014#12 ∨
        (0x200 ≤ (off a).toNat ∧ (off a).toNat < 0x400 ∧ (off a).toNat % 4 = 0)) :=
  fun a h => ⟨rfl, rfl, by revert a; decide⟩

theorem witness_WriteOfReadOnlyOffsetIsIgnored :
    ∀ a ∈ [0x018, 0x040, 0x044, 0x1FC, 0x400, 0x5FC, 0x600, 0xFFC],
      (writing (off a) 1#32).script = [.host (off a) ⟨4, .write 1#32⟩] ∧ (off a).toNat % 4 = 0 ∧
      (0x018 ≤ (off a).toNat ∧ (off a).toNat < 0x200 ∨ 0x400 ≤ (off a).toNat) :=
  fun a h => ⟨rfl, by revert a; decide⟩

/-- The first and last bytes of the window, and the bytes beside it. -/
theorem witness_BusAddressIsBasePlusOffset :
    { idleState with script := [.bus 0x1FFC ⟨4, .read⟩] }.script = [.bus 0x1FFC ⟨4, .read⟩] ∧
    0x1000 = idleState.params.base + (0x000#12).toNat ∧ 0x1FFF = idleState.params.base + (0xFFF#12).toNat ∧
    0x0FFF < idleState.params.base ∧ idleState.params.base + 4096 ≤ 0x2000 := by decide

theorem witness_ChecksumIsTheByteSumMod65536 : ([1, 2] : List Byte).Perm [2, 1] := by decide

theorem witness_CksumStepWritesTheChecksum :
    (running .cksum .ck).script = [.engine true false] ∧ (running .cksum .ck).phase = .ck ∧
    (running .cksum .ck).op = .cksum := by decide

theorem witness_VerifyStepComparesTheClaim :
    (running .verify .ck).script = [.engine true false] ∧ (running .verify .ck).phase = .ck ∧
    (running .verify .ck).op = .verify := by decide

/-- The bytes 00 06 01 02 03 of R144. -/
theorem witness_VerifyOfChecksumFinishesOk :
    let s : State := { idleState with
      mem := cells 0x200 [0, 6, 1, 2, 3], txLen := 5
      script := [.host 0x000#12 ⟨4, .write 2#32⟩, .engine true false] }
    let bs : List Byte := [1, 2, 3]
    s.busy = false ∧ bs.length ≤ 510 ∧ s.txLen.toNat = bs.length + 2 ∧
    txBytes s (bs.length + 2) = hi8 (cksum16 bs) :: lo8 (cksum16 bs) :: bs := by decide

theorem witness_TransmitStepSendsOneByte :
    ∀ ready,
      let s := { running .sendCmd .tx with txpkt := [0, 5, 5], tidx := 2, script := [.engine ready false] }
      s.script = [.engine ready false] ∧ s.phase = .tx ∧ s.tidx < s.txpkt.length := by decide

theorem witness_ReceiveStepStoresOneByte :
    ∀ k ∈ [0, 2, 3, 511],
      let s := { running .sendCmd .rx with rx := [0x12], rneed := 512, rxCnt := k }
      s.script = [.engine true false] ∧ s.phase = .rx ∧ s.rx = [0x12] ∧ s.rxCnt < 512 ∧ Memory.wf s.mem := by decide

/-- The three outcomes: V-C4, V-C3 and V-C2. -/
theorem witness_ResponseCheckTestsChecksumThenLength :
    let s (ck len : Byte) : State := { running .sendCmd .rchk with
      mem := cells 0x400 [0x00, ck, 0x12, len, 0x02], respLen := 1, rneed := 5, rxCnt := 5 }
    (s 0x16 0x01).phase = .rchk ∧
    cksum16 (rxBytes (s 0x16 0x01) 2 3) ≠ be16 (rxbuf (s 0x16 0x01) 0) (rxbuf (s 0x16 0x01) 1) ∧
    (cksum16 (rxBytes (s 0x16 0x02) 2 3) = be16 (rxbuf (s 0x16 0x02) 0) (rxbuf (s 0x16 0x02) 1) ∧
      (rxbuf (s 0x16 0x02) 3).toNat ≠ (s 0x16 0x02).respLen.toNat) ∧
    (cksum16 (rxBytes (s 0x15 0x01) 2 3) = be16 (rxbuf (s 0x15 0x01) 0) (rxbuf (s 0x15 0x01) 1) ∧
      (rxbuf (s 0x15 0x01) 3).toNat = (s 0x15 0x01).respLen.toNat) := by decide

theorem witness_ReadTimesOutOnlyWhenEnabled :
    ∀ p ∈ [Phase.rx, .hdr, .pay, .stoprd], ∀ en up,
      let s := { running .drain p with toEn := en, script := [.engine true up] }
      s.script = [.engine true up] ∧ (s.phase = .rx ∨ s.phase = .hdr ∨ s.phase = .pay ∨ s.phase = .stoprd) ∧
      s.rx = [] ∧ s.toEn = en := by decide

/-- The exchange of V-C2, one byte AA left over (V-C9). -/
theorem witness_CommandExchangeRunsToItsResult :
    let resp : List Byte := [0x00, 0x15, 0x12, 0x01, 0x02]
    let turns (n : Nat) : List (Bool × Bool) := List.replicate n (true, false)
    let s : State := { idleState with
      cmd := 0x12, mem := cells 0x200 [1, 2], txLen := 2, respLen := 1, rx := resp ++ [0xAA]
      script := .host 0x000#12 ⟨4, .write 3#32⟩ :: engineTurns (turns 5) ++ engineTurns (turns 6) ++ [] }
    Memory.wf s.mem ∧ s.busy = false ∧ s.txLen.toNat ≤ 512 ∧ s.respLen.toNat ≤ 508 ∧ decodeCtrl 3#32 = .sendCmd ∧
    resp.length = 4 + s.respLen.toNat ∧ s.rx = resp ++ [0xAA] ∧ (turns 5).length = 3 + s.txLen.toNat ∧
    (∀ c ∈ turns 5, c.1 = true) ∧ (turns 6).length = resp.length + 1 ∧
    s.script = .host 0x000#12 ⟨4, .write 3#32⟩ :: engineTurns (turns 5) ++ engineTurns (turns 6) ++ [] :=
  ⟨by decide, rfl, by decide, by decide, by decide, rfl, rfl, rfl, by decide, rfl, rfl⟩

theorem witness_EmptyPollEndsTheOperation :
    ∀ op ∈ [Op.tryDecode, .drain], (running op .poll).script = [.engine true false] ∧
      (running op .poll).phase = .poll ∧ (running op .poll).rx = [] ∧
      ((running op .poll).op = .tryDecode ∨ (running op .poll).op = .drain) := by decide

theorem witness_MarkerStartsAFrame : (running .drain .poll).phase = .poll := by decide

theorem witness_UnexpectedByteIsCounted :
    (running .tryDecode .poll).phase = .poll ∧ (running .tryDecode .poll).op = .tryDecode ∧
    (running .drain .poll).op = .drain ∧ 0x7D#8 ≠ 0x7E#8 ∧
    { running .drain .poll with rx := [0x7D] }.script = [.engine true false] ∧
    { running .drain .poll with rx := [0x7D] }.rx = [0x7D] := by decide

theorem witness_EscapeByteOnlySetsEsc :
    (running .drain .hdr).phase = .hdr ∧ (running .drain .pay).phase = .pay ∧ (running .drain .hdr).esc = false := by
  decide

/-- Header bytes 0, 2 (the stop code and another) and 7, raw and from an escape pair. -/
theorem witness_HeaderByteIsStoredAndTested :
    (∀ k ∈ [0, 2, 7], ∀ e, { running .drain .hdr with hcnt := k, esc := e }.phase = .hdr ∧
      { running .drain .hdr with hcnt := k, esc := e }.hcnt = k ∧ k < 8) ∧
    ((running .drain .hdr).stopCode = 0x50 ∧ 0x50#8 ≠ 0x7D#8) ∧ 0x70#8 = 0x50#8 ||| 0x20#8 ∧
    { running .drain .hdr with stopCode := 0x70 }.stopCode = 0x70 ∧
    (∀ b ∈ [3#8, 4#8, 5#8, 255#8],
      b.toNat - 4 = { running .drain .hdr with hdr := #v[0, 0, 0, b, 0, 0, 0, 0] }.hdr[3].toNat - 4) := by decide

theorem witness_StopAbandonsTheHeader :
    (let s := { running .drain .hdr with hcnt := 2 };
      s.phase = .hdr ∧ s.hcnt = 2 ∧ 0x50#8 = s.stopCode ∧ s.esc = false) ∧
    (let s := { running .drain .hdr with hcnt := 2, esc := true, stopCode := 0x70 };
      s.phase = .hdr ∧ s.hcnt = 2 ∧ 0x70#8 = s.stopCode ∧ s.esc = true ∧ 0x70#8 = 0x50#8 ||| 0x20#8) := by decide

theorem witness_StopBytesAreTakenRaw :
    (running .drain .stoprd).phase = .stoprd ∧ (running .drain .stoprd).scnt = 0 ∧
    { running .drain .stoprd with scnt := 1 }.scnt ≠ 0 := by decide

theorem witness_PayloadByteIsStored :
    ∀ k ∈ [0, 250], ∀ e,
      let s := { running .drain .pay with plen := 251, pcnt := k, esc := e }
      s.phase = .pay ∧ s.pcnt < 251 ∧ Memory.wf s.pay ∧ s.esc = e := by decide

/-- V-S1 accepted; V-S11 dropped, by both operations. -/
theorem witness_FrameCheckAcceptsOrDrops :
    let s (op : Op) (lo p0 p1 : Byte) : State := { running op .check with
      hdr := #v[0, lo, 0, 6, 1, 0, 0, 0], hcnt := 8, plen := 2, pcnt := 2, pay := [(0, p0), (1, p1)] }
    let calc' (t : State) :=
      cksum16 ([t.hdr[2], t.hdr[3], t.hdr[4], t.hdr[5], t.hdr[6], t.hdr[7]] ++ payBytes t t.plen)
    (s .drain 0x4D 0x12 0x34).phase = .check ∧
    calc' (s .drain 0x4D 0x12 0x34) = be16 (s .drain 0x4D 0x12 0x34).hdr[0] (s .drain 0x4D 0x12 0x34).hdr[1] ∧
    (∀ op ∈ [Op.tryDecode, .drain],
      calc' (s op 0x4C 0x12 0x34) ≠ be16 (s op 0x4C 0x12 0x34).hdr[0] (s op 0x4C 0x12 0x34).hdr[1] ∧
      (s op 0x4C 0x12 0x34).op = op) := by decide

/-- SAMPLE_DEPTH 125 and FDESC_DEPTH 1: room to the last entry, and one entry short of it. -/
theorem witness_EmitPushesAWholeFrameOrWaits :
    let s (op : Op) (k : Kind) (len : Nat) (held : List Half) (ds : List FDesc) : State :=
      { running op .emit with kind := k, plen := len, sample := held, fdesc := ds }
    (∀ op ∈ [Op.tryDecode, .drain], (s op .data 251 [] []).op = op ∧ (s op .data 251 [] []).phase = .emit) ∧
    (s .drain .data 251 [] []).sample.length + 251 / 2 ≤ (s .drain .data 251 [] []).params.sampleDepth ∧
    (s .drain .data 251 [] []).fdesc.length + 1 ≤ (s .drain .data 251 [] []).params.fdescDepth ∧
    (s .drain .stop 0 [] []).sample.length ≤ (s .drain .stop 0 [] []).params.sampleDepth ∧
    (s .drain .data 251 [1] []).params.sampleDepth < (s .drain .data 251 [1] []).sample.length + 251 / 2 ∧
    (s .drain .data 0 [] [⟨1, 0, .data⟩]).params.fdescDepth < (s .drain .data 0 [] [⟨1, 0, .data⟩]).fdesc.length + 1 := by
  decide

theorem witness_FrameForgetsEarlierFrames : (running .tryDecode .poll).phase = .poll := by decide

/-- V-S4, its payload 7E 7D sent escaped. -/
theorem witness_WellFormedFrameIsDelivered :
    let raw : List Byte := [0x01, 0x03, 0x00, 0x06, 0x02, 0x00, 0x00, 0x00, 0x7D, 0x5E, 0x7D, 0x5D]
    let hdr : List Byte := [0x01, 0x03, 0x00, 0x06, 0x02, 0x00, 0x00, 0x00]
    let payload : List Byte := [0x7E, 0x7D]
    let turns : List (Bool × Bool) := List.replicate 15 (false, true)
    let s : State := { running .tryDecode .poll with rx := markerByte :: raw ++ [0x55], script := engineTurns turns ++ [] }
    Memory.wf s.pay ∧ s.phase = .poll ∧ (s.op = .tryDecode ∨ s.op = .drain) ∧ hdr.length = 8 ∧
    hdr[2] ≠ s.stopCode ∧ payload.length = plenOf hdr[3] ∧
    cksum16 (hdr.drop 2 ++ payload) = be16 hdr[0] hdr[1] ∧ unescapeBytes raw = some (hdr ++ payload) ∧
    s.rx = markerByte :: raw ++ [0x55] ∧ s.sample.length + payload.length / 2 ≤ s.params.sampleDepth ∧
    s.fdesc.length + 1 ≤ s.params.fdescDepth ∧ turns.length = raw.length + 3 ∧
    s.script = engineTurns turns ++ [] ∧ { s with op := .drain }.op = .drain :=
  ⟨by decide, rfl, .inl rfl, rfl, by decide, by decide, by decide, by decide, rfl, by decide, by decide, rfl, rfl, rfl⟩

/-- The header of V-S6, length field 3 and no payload, with its checksum one too small. -/
theorem witness_CorruptFrameIsDroppedAndCounted :
    let raw : List Byte := [0x00, 0x03, 0x00, 0x03, 0x01, 0x00, 0x00, 0x00]
    let turns : List (Bool × Bool) := List.replicate 10 (false, false)
    let s : State := { running .tryDecode .poll with rx := markerByte :: raw ++ [], script := engineTurns turns ++ [] }
    Memory.wf s.pay ∧ s.phase = .poll ∧ (s.op = .tryDecode ∨ s.op = .drain) ∧ raw.length = 8 ∧
    raw[2] ≠ s.stopCode ∧ ([] : List Byte).length = plenOf raw[3] ∧
    cksum16 (raw.drop 2 ++ []) ≠ be16 raw[0] raw[1] ∧ unescapeBytes raw = some (raw ++ []) ∧
    s.rx = markerByte :: raw ++ [] ∧ turns.length = raw.length + 2 ∧ s.script = engineTurns turns ++ [] ∧
    { s with op := .drain }.op = .drain :=
  ⟨by decide, rfl, .inl rfl, rfl, by decide, by decide, by decide, by decide, rfl, rfl, rfl, rfl⟩

/-- V-S12. -/
theorem witness_StopNotificationIsDelivered :
    let raw : List Byte := [0x00, 0x05, 0x50]
    let turns : List (Bool × Bool) := List.replicate 7 (false, false)
    let s : State := { running .tryDecode .poll with
      rx := markerByte :: raw ++ 0x7D :: 0x7E :: [], script := engineTurns turns ++ [] }
    s.phase = .poll ∧ unescapeBytes raw = some [0x00, 0x05, s.stopCode] ∧
    s.rx = markerByte :: raw ++ 0x7D :: 0x7E :: [] ∧ s.sample.length ≤ s.params.sampleDepth ∧
    s.fdesc.length + 1 ≤ s.params.fdescDepth ∧ turns.length = raw.length + 4 ∧
    s.script = engineTurns turns ++ [] :=
  ⟨rfl, by decide, rfl, by decide, by decide, rfl, rfl⟩

/-- A DRAIN about to poll meets the invariant. -/
theorem running_poll_inv : (running .drain .poll).Inv where
  op := ⟨by decide, by decide, by decide, by decide, by decide⟩
  count := ⟨by decide, by decide, by decide, by decide, by decide, by decide, by decide, by decide,
    by decide, fun _ h => absurd h (Nat.not_lt_zero _)⟩
  fifo := ⟨by decide, by decide, by decide, fun _ h => absurd h List.not_mem_nil⟩
  stores := ⟨by decide, fun _ h => absurd h List.not_mem_nil, by decide, fun _ h => absurd h List.not_mem_nil⟩
  phase := trivial

theorem witness_EveryStepKeepsTheInvariant :
    (running .drain .poll).Inv ∧ step (running .drain .poll) = .next (settle (fetch (running .drain .poll))) :=
  ⟨running_poll_inv, step_eq _⟩

theorem witness_EveryInstructionKeepsTheInvariant :
    (running .drain .poll).Inv ∧ exec .marker (running .drain .poll) = .next (startFrame (running .drain .poll)) :=
  ⟨running_poll_inv, rfl⟩

/-- A DRAIN that polls nothing ends. -/
theorem witness_OperationEndsWithOneOfItsResults :
    (running .drain .poll).Inv ∧ (running .drain .poll).op ≠ .none ∧
    after (step (running .drain .poll)) (fun t => t.done) = some true :=
  ⟨running_poll_inv, by decide, by decide⟩

/-- A DRAIN that polls a marker goes on. -/
theorem witness_RunningOperationsArgumentsAreFrozen :
    State.Inv { running .drain .poll with rx := [0x7E] } ∧ { running .drain .poll with rx := [0x7E] }.busy = true ∧
    after (step { running .drain .poll with rx := [0x7E] }) (fun t => t.busy) = some true :=
  ⟨inv_of_free running_poll_inv _ _ _ _ _ _ _ _ _ _ _ [0x7E] _ _ _, by decide, by decide⟩

theorem witness_FifosPopOldestOrTakeAWholeFrame :
    step (running .drain .emit) = .next (settle (fetch (running .drain .emit))) := step_eq _

theorem witness_EventCountersOnlyCountOrReset :
    step (running .drain .check) = .next (settle (fetch (running .drain .check))) := step_eq _

/-- A step of each kind, and an idle turn with a byte waiting. -/
theorem witness_StepMovesAtMostOneTransportByte :
    after (step { idleState with script := [.deliver 1] }) (fun t => (t.rx, t.tx)) = some ([1], []) ∧
    after (step { running .drain .poll with rx := [1, 2] }) (fun t => (t.rx, t.tx)) = some ([2], []) ∧
    after (step { running .sendCmd .tx with txpkt := [5, 6, 7], rx := [1] }) (fun t => (t.rx, t.tx)) =
      some ([1], [5]) ∧
    { idleState with script := [.engine true true], rx := [1] }.script = [.engine true true] ∧
    { idleState with script := [.engine true true], rx := [1] }.phase = .idle := by decide

/-- The host about to change the last byte of TXBUF. -/
def lastTxbufWrite : State := { writing 0x3FC#12 0x02000000#32 with mem := [(0x3FF, 1)] }

theorem lastTxbufWrite_inv : lastTxbufWrite.Inv where
  op := ⟨by decide, by decide, by decide, by decide, by decide⟩
  count := ⟨by decide, by decide, by decide, by decide, by decide, by decide, by decide, by decide,
    by decide, fun _ h => absurd h (Nat.not_lt_zero _)⟩
  fifo := ⟨by decide, by decide, by decide, fun _ h => absurd h List.not_mem_nil⟩
  stores := ⟨by decide, by decide, by decide, fun _ h => absurd h List.not_mem_nil⟩
  phase := trivial

/-- The engine about to receive the last byte of the longest response. -/
def lastRxbufByte : State :=
  { running .sendCmd .rx with
    respLen := 508, rneed := 512, rxCnt := 511, txpkt := [0, 0, 0], tidx := 3, rx := [2], mem := [(0x5FF, 1)] }

theorem lastRxbufByte_inv : lastRxbufByte.Inv where
  op := ⟨by decide, by decide, by decide, by decide, by decide⟩
  count := ⟨by decide, by decide, by decide, by decide, by decide, by decide, by decide, by decide,
    by decide, fun _ h => absurd h (Nat.not_lt_zero _)⟩
  fifo := ⟨by decide, by decide, by decide, fun _ h => absurd h List.not_mem_nil⟩
  stores := ⟨by decide, by decide, by decide, fun _ h => absurd h List.not_mem_nil⟩
  phase := ⟨by decide, by decide⟩

theorem witness_BuffersHaveOneWriterEach :
    lastTxbufWrite.Inv ∧ txbuf lastTxbufWrite 511 = 1 ∧
    after (step lastTxbufWrite) (fun t => (t.boots, txbuf t 511)) = some (lastTxbufWrite.boots, 2) ∧
    lastRxbufByte.Inv ∧ rxbuf lastRxbufByte 511 = 1 ∧
    after (step lastRxbufByte) (fun t => (t.boots, rxbuf t 511)) = some (lastRxbufByte.boots, 2) :=
  ⟨lastTxbufWrite_inv, by decide, by decide, lastRxbufByte_inv, by decide, by decide⟩

theorem witness_BusyClearsOnlyByCompletionOrReset :
    (running .drain .poll).Inv ∧ (running .drain .poll).busy = true ∧
    after (step (running .drain .poll)) (fun t => t.busy) = some false :=
  ⟨running_poll_inv, by decide, by decide⟩

theorem witness_WireFieldArithmetic : 4 ≤ (4#8).toNat ∧ (3#8).toNat < 4 := by decide

end Sys2Proof.Tests
end

section
/-! PROOFS. 00_scope: no step of any agent stops the machine (O9), and BUSY clears only by completion or reset
(O59). -/

namespace Sys2Proof.Machine

/-- Settles O9: a fetched instruction always has a next state, and any other fetched step is its own. -/
theorem everyStepHasANextState : Obligations.EveryStepHasANextState :=
  fun s => ⟨settle (fetch s), step_eq s⟩

/-! ## The resets leave R47's values -/

theorem reset_atResetValues : State.reset.AtResetValues := by unfold State.AtResetValues; decide

/-- R47 speaks of no field that SRST keeps. -/
theorem softReset_atResetValues (s : State) : (softReset s).AtResetValues := reset_atResetValues

/-- R47 speaks of no field that a power-on reset keeps or counts. -/
theorem powerOnReset_atResetValues (s : State) : (powerOnReset s).AtResetValues := reset_atResetValues

/-! ## How a busy engine may be left -/

/-- The operation runs on, or it was completed or reset: no operation is left, in phase IDLE (R12, R82, R273). -/
def State.BusyOrEnded (t : State) : Prop :=
  t.busy = true ∨ (t.op = .none ∧ t.phase = .idle ∧ (t.done = true ∨ t.AtResetValues))

variable {s t : State}

theorem finish_busyOrEnded (r : Result) (s : State) : (finish r s).BusyOrEnded := .inr ⟨rfl, rfl, .inl rfl⟩

theorem softReset_busyOrEnded (s : State) : (softReset s).BusyOrEnded :=
  .inr ⟨rfl, rfl, .inr (softReset_atResetValues s)⟩

theorem powerOnReset_busyOrEnded (s : State) : (powerOnReset s).BusyOrEnded :=
  .inr ⟨rfl, rfl, .inr (powerOnReset_atResetValues s)⟩

theorem endTryOrPoll_busyOrEnded (r : Result) (hb : s.busy = true) : (endTryOrPoll r s).BusyOrEnded := by
  rcases endTryOrPoll_cases r s with ⟨-, e⟩ | ⟨-, e⟩ <;> rw [e]
  · exact finish_busyOrEnded r s
  · exact .inl hb

/-- While BUSY = 1 a start is dropped (R250). -/
theorem startOp_of_busy (op : Op) (begin : State → State) (hb : s.busy = true) :
    startOp op begin s = ignoreWrite s := if_pos hb

/-- While BUSY = 1 a reserved operation code is dropped (R250). -/
theorem startReserved_of_busy (hb : s.busy = true) : startReserved s = ignoreWrite s := if_pos hb

/-- A logical byte of a frame ends no operation. -/
@[simp] theorem acceptLogical_busy (b : Byte) (s : State) : (acceptLogical b s).busy = s.busy := by
  unfold acceptLogical
  split
  · rcases acceptHdr_cases b s with ⟨-, -, e⟩ | ⟨-, e⟩ | ⟨-, -, e⟩ <;> rw [e] <;> rfl
  · rw [acceptPay_eq]
  all_goals rfl

/-- Sending a byte ends no operation. -/
@[simp] theorem txStep_busy (s : State) : (txStep s).busy = s.busy := by
  unfold txStep; split <;> rfl

@[simp] theorem readEffect_busy (a : Nat) (s : State) : (readEffect a s).busy = s.busy := by
  rcases readEffect_cases a s with ⟨-, e⟩ | ⟨-, e⟩ | ⟨-, -, e⟩ <;> rw [e]

@[simp] theorem applyWrite_busy (a : Nat) (v : Word) (s : State) : (applyWrite a v s).busy = s.busy := by
  rw [applyWrite_eq]

@[simp] theorem hostWrite_busy (a : Nat) (v : Word) (s : State) : (hostWrite a v s).busy = s.busy := by
  rcases hostWrite_cases a v s with ⟨-, -, e⟩ | ⟨-, -, e⟩ | ⟨-, e⟩ <;> simp [e]

/-- Of the instructions only ABORT, SRST and an unexpected byte end a running operation; a start is dropped. -/
theorem execState_busyOrEnded (i : Instr) (hb : s.busy = true) : (execState i s).BusyOrEnded := by
  have start (op : Op) (begin : State → State) : (startOp op begin s).BusyOrEnded := by
    rw [startOp_of_busy op begin hb]; exact .inl hb
  have reserved : (startReserved s).BusyOrEnded := by
    rw [startReserved_of_busy hb]; exact .inl hb
  cases i with
  | nop => exact .inl hb
  | cksum => exact start _ _
  | verify => exact start _ _
  | sendCmd => exact start _ _
  | tryDecode => exact start _ _
  | drain => exact start _ _
  | badOpLow _ => exact reserved
  | badOpHigh _ => exact reserved
  | abort =>
    show State.BusyOrEnded (if s.busy then finish .aborted { s with esc := false } else s)
    rw [if_pos hb]; exact finish_busyOrEnded _ _
  | srst => exact softReset_busyOrEnded s
  | clrwi => exact .inl hb
  | marker =>
    show State.BusyOrEnded (if s.phase = .poll then startFrame s else s)
    split <;> exact .inl hb
  | unexpected b =>
    show State.BusyOrEnded (if s.phase = .poll then _ else s)
    split
    · exact endTryOrPoll_busyOrEnded _ hb
    · exact .inl hb
  | esc =>
    show State.BusyOrEnded (if inFrame s && !s.esc then { s with esc := true } else s)
    split <;> exact .inl hb
  | lit b =>
    show State.BusyOrEnded (if inFrame s && !s.esc then acceptLogical b s else s)
    split
    · exact .inl ((acceptLogical_busy b s).trans hb)
    · exact .inl hb
  | escd r =>
    show State.BusyOrEnded (if inFrame s && s.esc then acceptLogical (unescape r) { s with esc := false } else s)
    split
    · exact .inl ((acceptLogical_busy _ _).trans hb)
    · exact .inl hb
  | stopb r =>
    show State.BusyOrEnded (if s.phase = .stoprd then _ else s)
    (repeat' split) <;> exact .inl hb
  | stop b =>
    show State.BusyOrEnded (if s.phase = .hdr ∧ s.hcnt = 2 ∧ b = s.stopCode then _ else s)
    split <;> exact .inl hb

theorem ckStep_busyOrEnded (hb : s.busy = true) : (ckStep s).BusyOrEnded := by
  unfold ckStep
  split
  · exact finish_busyOrEnded _ _
  · exact finish_busyOrEnded _ _
  all_goals exact .inl hb

theorem checkStep_busyOrEnded (hb : s.busy = true) : (checkStep s).BusyOrEnded := by
  rcases checkStep_cases s with ⟨-, e⟩ | ⟨-, e⟩ <;> rw [e]
  · exact .inl hb
  · exact endTryOrPoll_busyOrEnded _ hb

theorem emitStep_busyOrEnded (hb : s.busy = true) : (emitStep s).BusyOrEnded := by
  rcases emitStep_cases s with ⟨-, e⟩ | ⟨-, -, e⟩ | ⟨-, -, e⟩ <;> rw [e]
  · exact .inl hb
  · exact endTryOrPoll_busyOrEnded _ hb
  · exact finish_busyOrEnded _ _

/-- Whatever one event does to a busy engine, it runs on or has been ended. -/
theorem Move.busyOrEnded (hm : Move s t) (hb : s.busy = true) : t.BusyOrEnded := by
  cases hm with
  | still => exact .inl hb
  | busError => exact .inl hb
  | read a => exact .inl ((readEffect_busy a s).trans hb)
  | write a v => exact .inl ((hostWrite_busy a v _).trans hb)
  | hostInstr _ _ i => exact execState_busyOrEnded i hb
  | acknowledge => exact .inl hb
  | ck => exact ckStep_busyOrEnded hb
  | transmit => exact .inl ((txStep_busy s).trans hb)
  | receive r rest => rw [rxStep_eq]; exact .inl hb
  | rchk => exact finish_busyOrEnded _ _
  | timeout => exact finish_busyOrEnded _ _
  | pollEmpty => exact finish_busyOrEnded _ _
  | token _ rest i => exact execState_busyOrEnded i hb
  | check => exact checkStep_busyOrEnded hb
  | emit => exact emitStep_busyOrEnded hb
  | deliver => exact .inl hb
  | powerOn => exact powerOnReset_busyOrEnded s

theorem step_busyOrEnded (hs : step s = .next t) (hb : s.busy = true) : t.BusyOrEnded := by
  rcases step_cases hs with ⟨-, rfl⟩ | ⟨e, rest, -, hm⟩
  · exact .inl hb
  · exact hm.busyOrEnded hb

/-- Settles O59: a step that leaves a busy engine not busy has ended its operation, by a completion or a reset. -/
theorem busyClearsOnlyByCompletionOrReset : Obligations.BusyClearsOnlyByCompletionOrReset := by
  intro s t _ hs hb hclear
  rcases step_busyOrEnded hs hb with hbusy | hended
  · rw [hclear] at hbusy; contradiction
  · exact hended

end Sys2Proof.Machine
end

section
/-! PROOFS. 10_state: what each part of the invariant depends on, and which updates of the state keep it. -/

namespace Sys2Proof.Machine

variable {s t : State}

/-! ## Flags, operation and phase -/

/-- The fields `OpInv` speaks of, less the phase. -/
def State.opFields (s : State) :
    (Bool × Bool × Result × Op) × (Byte × BitVec 10 × BitVec 10 × List Byte × Nat × List Byte) :=
  ((s.busy, s.done, s.result, s.op), (s.cmd, s.txLen, s.respLen, s.txpkt, s.rneed, txBytes s s.txLen.toNat))

/-- Operations that share a phase have the same phases (R44). -/
theorem phasesOf_eq_of_mem {o o' : Op} {p : Phase} (h : p ∈ phasesOf o) (h' : p ∈ phasesOf o') :
    phasesOf o = phasesOf o' := by
  cases o <;> cases o' <;> grind [phasesOf]

/-- The engine goes from one phase of its operation to another, and its flags and operands stay. -/
theorem State.OpInv.move (h : s.OpInv) (o : Op) (e : t.opFields = s.opFields) (hs : s.phase ∈ phasesOf o)
    (ht : t.phase ∈ phasesOf o) : t.OpInv := by
  have hmem : t.phase ∈ phasesOf s.op := phasesOf_eq_of_mem hs h.phase_op ▸ ht
  simp only [State.opFields, Prod.mk.injEq] at e
  obtain ⟨⟨hbusy, hdone, hresult, hop⟩, hcmd, htxLen, hrespLen, htxpkt, hrneed, hbytes⟩ := e
  have hargs : argOk t.op t = argOk s.op s := by simp only [argOk, hop, htxLen, hrespLen]
  refine ⟨?_, hop ▸ hmem, ?_, hargs.trans h.args, ?_⟩
  · rw [hbusy, hop]; exact h.busy_op
  · rw [hbusy, hdone, hresult]; exact h.busy_result
  · rw [hop, htxpkt, hcmd, hbytes, hrneed, hrespLen]; exact h.packet

/-- Nothing `OpInv` speaks of changes. -/
theorem State.OpInv.keep (h : s.OpInv) (e : t.opFields = s.opFields) (hp : t.phase = s.phase) : t.OpInv :=
  h.move s.op e h.phase_op (hp ▸ h.phase_op)

/-- An idle engine with no operation asks nothing of the operands. -/
theorem opInv_of_idle (hb : t.busy = false) (ho : t.op = .none) (hp : t.phase = .idle) : t.OpInv := by
  refine ⟨by simp [hb, ho], by simp [ho, hp, phasesOf], by simp [hb], ?_, by simp [ho]⟩
  rw [ho]; rfl

/-- With BUSY = 0 there is no operation and the phase is IDLE (R23, R44). -/
theorem State.OpInv.idle (h : s.OpInv) (hb : s.busy = false) : s.op = .none ∧ s.phase = .idle := by
  have ho : s.op = .none := by
    by_contra hne
    rw [h.busy_op.mpr hne] at hb; contradiction
  have hp := h.phase_op
  rw [ho] at hp
  exact ⟨ho, List.mem_singleton.mp hp⟩

/-! ## Counts -/

/-- The counts of the frame in progress, and the stores they count (R37, R38, R40). -/
def State.frameCounts (s : State) : Nat × Nat × Nat × Nat × Vector Byte 8 × Memory :=
  (s.hcnt, s.plen, s.pcnt, s.scnt, s.hdr, s.pay)

/-- The counts of the packet and the response in progress (R30, R40). -/
def State.packetCounts (s : State) : Nat × List Byte × Nat × Nat := (s.tidx, s.txpkt, s.rneed, s.rxCnt)

/-- The frame's counts change, the packet's stay. -/
theorem State.CountInv.setFrame (h : s.CountInv) (e : t.packetCounts = s.packetCounts) (hcnt_le : t.hcnt ≤ 8)
    (plen_eq : t.plen = if t.hcnt = 8 then plenOf t.hdr[3] else 0) (pcnt_le : t.pcnt ≤ t.plen) (scnt_le : t.scnt ≤ 1)
    (hdr_zero : ∀ i, (h : i < 8) → t.hcnt ≤ i → t.hdr[i] = 0)
    (pay_written : ∀ i, i < t.pcnt → (memGet t.pay i).isSome = true) : t.CountInv := by
  simp only [State.packetCounts, Prod.mk.injEq] at e
  obtain ⟨htidx, htxpkt, hrneed, hrxCnt⟩ := e
  refine ⟨hcnt_le, plen_eq, pcnt_le, scnt_le, ?_, ?_, ?_, ?_, hdr_zero, pay_written⟩
  · rw [htidx, htxpkt]; exact h.tidx_le
  · rw [htxpkt]; exact h.txpkt_le
  · rw [hrneed]; exact h.rneed_range
  · rw [hrxCnt, hrneed]; exact h.rxCnt_le

/-- The packet's counts change, the frame's stay. -/
theorem State.CountInv.setPacket (h : s.CountInv) (e : t.frameCounts = s.frameCounts)
    (tidx_le : t.tidx ≤ t.txpkt.length) (txpkt_le : t.txpkt.length ≤ 515) (rneed_range : 4 ≤ t.rneed ∧ t.rneed ≤ 512)
    (rxCnt_le : t.rxCnt ≤ t.rneed) : t.CountInv := by
  simp only [State.frameCounts, Prod.mk.injEq] at e
  obtain ⟨hhcnt, hplen, hpcnt, hscnt, hhdr, hpay⟩ := e
  refine ⟨?_, ?_, ?_, ?_, tidx_le, txpkt_le, rneed_range, rxCnt_le, ?_, ?_⟩
  · rw [hhcnt]; exact h.hcnt_le
  · rw [hplen, hhcnt, hhdr]; exact h.plen_eq
  · rw [hpcnt, hplen]; exact h.pcnt_le
  · rw [hscnt]; exact h.scnt_le
  · rw [hhcnt, hhdr]; exact h.hdr_zero
  · rw [hpcnt, hpay]; exact h.pay_written

/-- No count changes. -/
theorem State.CountInv.keep (h : s.CountInv) (ef : t.frameCounts = s.frameCounts)
    (ep : t.packetCounts = s.packetCounts) : t.CountInv := by
  have e := ep
  simp only [State.packetCounts, Prod.mk.injEq] at e
  obtain ⟨htidx, htxpkt, hrneed, hrxCnt⟩ := e
  refine h.setPacket ef ?_ ?_ ?_ ?_
  · rw [htidx, htxpkt]; exact h.tidx_le
  · rw [htxpkt]; exact h.txpkt_le
  · rw [hrneed]; exact h.rneed_range
  · rw [hrxCnt, hrneed]; exact h.rxCnt_le

/-- A header that is not complete gives no payload length, and no payload byte is counted. -/
theorem State.CountInv.plen_eq_zero (h : s.CountInv) (h8 : s.hcnt ≠ 8) : s.plen = 0 ∧ s.pcnt = 0 := by
  have hplen : s.plen = 0 := by rw [h.plen_eq, if_neg h8]
  have hpcnt := h.pcnt_le
  omega

/-- A payload has at most PAY_MAX bytes (R7, R108). -/
theorem plenOf_le (b : Byte) : plenOf b ≤ payMax := by
  have := b.isLt
  simp only [plenOf, lenBias, payMax]; omega

theorem State.CountInv.plen_le (h : s.CountInv) : s.plen ≤ payMax := by
  rw [h.plen_eq]
  split
  · exact plenOf_le _
  · exact Nat.zero_le _

/-! ## FIFOs and stores -/

/-- The FIFOs and their depths do not change. -/
theorem State.FifoInv.keep (h : s.FifoInv) (e : (t.params, t.sample, t.fdesc) = (s.params, s.sample, s.fdesc)) :
    t.FifoInv := by
  simp only [Prod.mk.injEq] at e
  obtain ⟨hparams, hsample, hfdesc⟩ := e
  refine ⟨?_, ?_, ?_, ?_⟩
  · rw [hparams]; exact h.params_ok
  · rw [hparams, hsample]; exact h.sample_le
  · rw [hparams, hfdesc]; exact h.fdesc_le
  · rw [hfdesc]; exact h.fdesc_ok

/-- The byte stores do not change. -/
theorem State.StoresInv.keep (h : s.StoresInv) (e : (t.mem, t.pay) = (s.mem, s.pay)) : t.StoresInv := by
  simp only [Prod.mk.injEq] at e
  obtain ⟨hmem, hpay⟩ := e
  refine ⟨?_, ?_, ?_, ?_⟩
  · rw [hmem]; exact h.mem_wf
  · rw [hmem]; exact h.mem_in
  · rw [hpay]; exact h.pay_wf
  · rw [hpay]; exact h.pay_in

/-- A byte of TXBUF or RXBUF written keeps the stores' form. -/
theorem State.StoresInv.storeByte (h : s.StoresInv) {a : Nat} (b : Byte) (ha : inTxbuf a ∨ inRxbuf a) :
    (storeByte a b s).StoresInv := by
  refine ⟨memPut_wf _ _ h.mem_wf, fun c hc => ?_, h.pay_wf, h.pay_in⟩
  rcases mem_memPut hc with hc | rfl
  · exact h.mem_in c hc
  · exact ha

theorem State.StoresInv.storeRxbuf (h : s.StoresInv) (i : Nat) (b : Byte) : (storeRxbuf i b s).StoresInv := by
  unfold Machine.storeRxbuf
  split
  next hi => exact h.storeByte b (.inr ((inRxbuf_iff _).mpr (by simp only [rxbufBase, bufSize] at *; omega)))
  next => exact h

/-- An aligned word of TXBUF lies wholly in TXBUF (R72, R76). -/
theorem State.StoresInv.storeWord (h : s.StoresInv) {a : Nat} (v : Word) (h4 : a % 4 = 0) (ha : inTxbuf a) :
    (storeWord a v s).StoresInv := by
  have inside : ∀ j, j < 4 → inTxbuf (a + j) := fun j hj => by
    rw [inTxbuf_iff] at ha ⊢; omega
  exact (((h.storeByte _ (.inl ha)).storeByte _ (.inl (inside 1 (by omega)))).storeByte _
    (.inl (inside 2 (by omega)))).storeByte _ (.inl (inside 3 (by omega)))

theorem State.StoresInv.storePaybuf (h : s.StoresInv) (i : Nat) (b : Byte) : (storePaybuf i b s).StoresInv := by
  unfold Machine.storePaybuf
  split
  next hi =>
    refine ⟨h.mem_wf, h.mem_in, memPut_wf _ _ h.pay_wf, fun c hc => ?_⟩
    rcases mem_memPut hc with hc | rfl
    · exact h.pay_in c hc
    · exact hi
  next => exact h

/-! ## The frame or packet in progress, phase by phase -/

theorem phaseInv_of_idle (hp : s.phase = .idle) : s.phaseInv := by simp only [State.phaseInv, hp]

theorem phaseInv_of_ck (hp : s.phase = .ck) : s.phaseInv := by simp only [State.phaseInv, hp]

theorem phaseInv_of_poll (hp : s.phase = .poll) : s.phaseInv := by simp only [State.phaseInv, hp]

theorem phaseInv_tx (hp : s.phase = .tx) : s.phaseInv ↔ s.tidx < s.txpkt.length ∧ s.rxCnt = 0 := by
  simp only [State.phaseInv, hp]

theorem phaseInv_rx (hp : s.phase = .rx) : s.phaseInv ↔ s.tidx = s.txpkt.length ∧ s.rxCnt < s.rneed := by
  simp only [State.phaseInv, hp]

theorem phaseInv_rchk (hp : s.phase = .rchk) : s.phaseInv ↔ s.tidx = s.txpkt.length ∧ s.rxCnt = s.rneed := by
  simp only [State.phaseInv, hp]

theorem phaseInv_hdr (hp : s.phase = .hdr) :
    s.phaseInv ↔ s.hcnt < 8 ∧ (3 ≤ s.hcnt → s.hdr[2] ≠ s.stopCode) := by
  simp only [State.phaseInv, hp]

theorem phaseInv_stoprd (hp : s.phase = .stoprd) :
    s.phaseInv ↔ s.hcnt = 3 ∧ s.hdr[2] = s.stopCode ∧ s.esc = false := by
  simp only [State.phaseInv, hp]

theorem phaseInv_pay (hp : s.phase = .pay) :
    s.phaseInv ↔ s.hcnt = 8 ∧ s.hdr[2] ≠ s.stopCode ∧ s.pcnt < s.plen := by
  simp only [State.phaseInv, hp]

theorem phaseInv_check (hp : s.phase = .check) :
    s.phaseInv ↔ s.hcnt = 8 ∧ s.hdr[2] ≠ s.stopCode ∧ s.pcnt = s.plen ∧ s.esc = false := by
  simp only [State.phaseInv, hp]

theorem phaseInv_emit_data (hp : s.phase = .emit) (hk : s.kind = .data) :
    s.phaseInv ↔ s.esc = false ∧ s.hcnt = 8 ∧ s.hdr[2] ≠ s.stopCode ∧ s.pcnt = s.plen := by
  simp only [State.phaseInv, hp, hk]

theorem phaseInv_emit_stop (hp : s.phase = .emit) (hk : s.kind = .stop) :
    s.phaseInv ↔ s.esc = false ∧ s.hcnt = 3 ∧ s.hdr[2] = s.stopCode := by
  simp only [State.phaseInv, hp, hk]

end Sys2Proof.Machine
end

section
/-! PROOFS. 10_state: the invariant holds at reset (O50), and every instruction, run in any state, keeps it (O52). -/

namespace Sys2Proof.Machine

variable {s t : State}

/-! ## Completion and the clearing of eng.esc -/

/-- Some phases ask that eng.esc be clear, none that it be set. -/
theorem inv_clearEsc (h : s.Inv) : State.Inv { s with esc := false } := by
  refine ⟨h.op.keep rfl rfl, h.count.keep rfl rfl, h.fifo.keep rfl, h.stores.keep rfl, ?_⟩
  have hphase := h.phase
  unfold State.phaseInv at hphase ⊢
  split <;> simp_all

/-- An operation of the invariant may end at any point. -/
theorem State.Inv.finish (h : s.Inv) (r : Result) : (finish r s).Inv := inv_finish r h.count h.fifo h.stores

/-! ## The resets -/

/-- The arguments of the machine are ones R7 admits. -/
theorem configParams_ok : Config.params.ok := by
  have hsample := Config.sampleRoom.isLt
  have hfdesc := Config.fdescRoom.isLt
  simp only [Params.ok, Config.params]
  omega

/-- Settles O50: everything is idle, every count is 0 and every store is empty. -/
theorem invariantHoldsAtReset : Obligations.InvariantHoldsAtReset where
  op := opInv_of_idle rfl rfl rfl
  count := ⟨by decide, rfl, by decide, by decide, by decide, by decide, by decide, by decide,
    fun i hi _ => by simp [State.reset], fun i hi => absurd hi (Nat.not_lt_zero i)⟩
  fifo := ⟨configParams_ok, Nat.zero_le _, Nat.zero_le _, fun d hd => absurd hd List.not_mem_nil⟩
  stores := ⟨reset_mem_wf.1, fun c hc => absurd hc List.not_mem_nil, reset_mem_wf.2,
    fun c hc => absurd hc List.not_mem_nil⟩
  phase := trivial

/-- A power-on reset keeps the arguments and empties everything else (R47, R301). -/
theorem inv_powerOnReset (h : s.Inv) : (powerOnReset s).Inv :=
  have hr := invariantHoldsAtReset
  ⟨opInv_of_idle rfl rfl rfl, hr.count.keep rfl rfl, ⟨h.fifo.params_ok, Nat.zero_le _, Nat.zero_le _, hr.fifo.fdesc_ok⟩,
    hr.stores.keep rfl, phaseInv_of_idle rfl⟩

/-- SRST empties everything but TXBUF and RXBUF (R47, R302). -/
theorem inv_softReset (h : s.Inv) : (softReset s).Inv :=
  have hr := invariantHoldsAtReset
  ⟨opInv_of_idle rfl rfl rfl, hr.count.keep rfl rfl, ⟨h.fifo.params_ok, Nat.zero_le _, Nat.zero_le _, hr.fifo.fdesc_ok⟩,
    ⟨h.stores.mem_wf, h.stores.mem_in, hr.stores.pay_wf, hr.stores.pay_in⟩, phaseInv_of_idle rfl⟩

/-! ## Operation start -/

/-- A start keeps the invariant when the operation's own part sets it up (R250, R251). -/
theorem inv_startOp {op : Op} {begin : State → State} (h : s.Inv)
    (hbegin : argOk op s = true → (begin { clearResult s with busy := true, op := op }).Inv) :
    (startOp op begin s).Inv := by
  rcases startOp_cases op begin s with ⟨-, e⟩ | ⟨-, ha, e⟩ | ⟨-, -, e⟩ <;> rw [e]
  · exact inv_of_free h ..
  · exact hbegin ha
  · exact inv_finish _ (h.count.keep rfl rfl) (h.fifo.keep rfl) (h.stores.keep rfl)

theorem inv_startReserved (h : s.Inv) : (startReserved s).Inv := by
  rcases startReserved_cases s with ⟨-, e⟩ | ⟨-, e⟩ <;> rw [e]
  · exact inv_of_free h ..
  · exact inv_finish _ (h.count.keep rfl rfl) (h.fifo.keep rfl) (h.stores.keep rfl)

/-- The first step of an operation that builds no packet is in a phase that asks nothing yet. -/
theorem inv_started (h : s.Inv) {op : Op} {p : Phase} (n : Word) (ha : argOk op s = true) (hp : p ∈ phasesOf op)
    (hfirst : p = .ck ∨ p = .poll) :
    State.Inv { clearResult s with busy := true, op := op, nframes := n, phase := p } where
  op := by
    have hop : op ≠ .none ∧ op ≠ .sendCmd := by
      constructor <;> rintro rfl <;> rcases hfirst with rfl | rfl <;> simp [phasesOf] at hp
    exact ⟨iff_of_true rfl hop.1, hp, fun _ => ⟨rfl, rfl⟩, (argOk_clearResult op s).trans ha, fun e => absurd e hop.2⟩
  count := h.count.keep rfl rfl
  fifo := h.fifo.keep rfl
  stores := h.stores.keep rfl
  phase := by
    rcases hfirst with rfl | rfl
    · exact phaseInv_of_ck rfl
    · exact phaseInv_of_poll rfl

/-- CKSUM and VERIFY start in phase CK (R143, R144). -/
theorem inv_startCk (h : s.Inv) {op : Op} (hp : .ck ∈ phasesOf op) :
    (startOp op (fun t => { t with phase := .ck }) s).Inv :=
  inv_startOp h fun ha => inv_started h s.nframes ha hp (.inl rfl)

/-- TRY_DECODE and DRAIN start in phase POLL (R191, R192). -/
theorem inv_startDecode (h : s.Inv) {op : Op} (hp : .poll ∈ phasesOf op) : (startOp op beginDecode s).Inv :=
  inv_startOp h fun ha => inv_started h 0 ha hp (.inr rfl)

/-- SEND_CMD starts with its packet built, none of it sent and nothing received (R161). -/
theorem inv_beginSend (h : s.Inv) (ha : argOk .sendCmd s = true) :
    (beginSend { clearResult s with busy := true, op := .sendCmd }).Inv := by
  obtain ⟨htx, hresp⟩ : s.txLen.toNat ≤ txLenMax ∧ s.respLen.toNat ≤ respLenMax := of_decide_eq_true ha
  have hlen : (commandPacket s.cmd (txBytes s s.txLen.toNat)).length = s.txLen.toNat + 3 := by
    rw [commandPacket_length, txBytes_length]
  refine ⟨⟨iff_of_true rfl (by simp [beginSend]), by simp [beginSend, phasesOf], fun _ => ⟨rfl, rfl⟩, ha,
      fun _ => ⟨rfl, rfl⟩⟩,
    h.count.setPacket rfl (Nat.zero_le _) ?_ ?_ (Nat.zero_le _), h.fifo.keep rfl, h.stores.keep rfl,
    (phaseInv_tx rfl).mpr ⟨?_, rfl⟩⟩
  · show (commandPacket s.cmd (txBytes s s.txLen.toNat)).length ≤ 515
    simp only [txLenMax] at htx; omega
  · show 4 ≤ 4 + s.respLen.toNat ∧ 4 + s.respLen.toNat ≤ 512
    simp only [respLenMax] at hresp; omega
  · show 0 < (commandPacket s.cmd (txBytes s s.txLen.toNat)).length
    omega

/-! ## The stream decoder's tokens -/

/-- Where TRY_DECODE ends and DRAIN polls again, only flags and phase change. -/
theorem inv_endTryOrPoll (h : s.Inv) (r : Result) (hp : s.phase ∈ phasesOf .drain) : (endTryOrPoll r s).Inv := by
  rcases endTryOrPoll_cases r s with ⟨-, e⟩ | ⟨-, e⟩ <;> rw [e]
  · exact h.finish r
  · exact ⟨h.op.move .drain rfl hp (by simp [phasesOf]), h.count.keep rfl rfl, h.fifo.keep rfl, h.stores.keep rfl,
      phaseInv_of_poll rfl⟩

/-- A marker sets up an empty frame (R194). -/
theorem inv_startFrame (h : s.Inv) (hp : s.phase = .poll) : (startFrame s).Inv where
  op := h.op.move .drain rfl (by simp [hp, phasesOf]) (by simp [phasesOf])
  count := h.count.setFrame rfl (Nat.zero_le _) rfl (Nat.zero_le _) (Nat.zero_le _) (fun i hi _ => by simp)
    (fun i hi => absurd hi (Nat.not_lt_zero i))
  fifo := h.fifo.keep rfl
  stores := h.stores.keep rfl
  phase := (phaseInv_hdr rfl).mpr ⟨Nat.zero_lt_succ _, fun h3 => absurd h3 (Nat.not_succ_le_zero _)⟩

/-- The header bytes at and above the count stay 0 when the next one is stored (R37). -/
theorem State.CountInv.storeHdr_zero (h : s.CountInv) (b : Byte) (i : Nat) (hi : i < 8) (hle : s.hcnt + 1 ≤ i) :
    (s.hdr.setIfInBounds s.hcnt b)[i] = 0 := by
  rw [Vector.getElem_setIfInBounds_ne _ (by omega)]
  exact h.hdr_zero i hi (by omega)

/-- A header byte that is not the last is counted, and the payload stays empty (R196). -/
theorem State.CountInv.storeHdr (h : s.CountInv) (b : Byte) (hlt : s.hcnt < 7) : (storeHdr b s).CountInv := by
  obtain ⟨hplen, hpcnt⟩ := h.plen_eq_zero (by omega)
  refine h.setFrame rfl ?_ ?_ h.pcnt_le h.scnt_le (h.storeHdr_zero b) h.pay_written
  · show s.hcnt + 1 ≤ 8
    omega
  · show s.plen = if s.hcnt + 1 = 8 then _ else 0
    rw [hplen, if_neg (by omega)]

/-- The eighth header byte gives the payload length (R200). -/
theorem State.CountInv.headerDone (h : s.CountInv) (b : Byte) (h7 : s.hcnt = 7) :
    (headerDone (Machine.storeHdr b s)).CountInv := by
  refine h.setFrame rfl ?_ ?_ (Nat.zero_le _) h.scnt_le (h.storeHdr_zero b) (fun i hi => absurd hi (Nat.not_lt_zero i))
  · show s.hcnt + 1 ≤ 8
    omega
  · show plenOf _ = if s.hcnt + 1 = 8 then plenOf _ else 0
    rw [if_pos (by omega)]; rfl

/-- The stop code in header byte 2 abandons the header (R198). -/
theorem inv_enterStop (h : s.Inv) (hp : s.phase = .hdr) (h2 : s.hcnt = 2) (he : s.esc = false) :
    (enterStop (storeHdr s.stopCode s)).Inv where
  op := h.op.move .drain rfl (by simp [hp, phasesOf]) (by simp [phasesOf])
  count :=
    have hc := h.count.storeHdr s.stopCode (by omega)
    hc.setFrame rfl hc.hcnt_le hc.plen_eq hc.pcnt_le (Nat.zero_le _) hc.hdr_zero hc.pay_written
  fifo := h.fifo.keep rfl
  stores := h.stores.keep rfl
  phase := (phaseInv_stoprd rfl).mpr ⟨by simp [h2], by simp [h2], he⟩

/-- A logical header byte: the stop test, the end of the header, or one byte more (R196, R198, R200). -/
theorem inv_acceptHdr (h : s.Inv) (hp : s.phase = .hdr) (he : s.esc = false) (b : Byte) : (acceptHdr b s).Inv := by
  obtain ⟨hlt, hstop⟩ := (phaseInv_hdr hp).mp h.phase
  have hdrain : s.phase ∈ phasesOf .drain := by rw [hp]; decide
  rcases acceptHdr_cases b s with ⟨h2, rfl, e⟩ | ⟨h7, e⟩ | ⟨h7, hne, e⟩ <;> rw [e]
  · exact inv_enterStop h hp h2 he
  · have h2 : (storeHdr b s).hdr[2] ≠ s.stopCode := by
      simpa [h7] using hstop (by omega)
    refine ⟨h.op.move .drain rfl hdrain ?_, h.count.headerDone b h7, h.fifo.keep rfl, h.stores.keep rfl, ?_⟩
    · show (if _ then Phase.check else Phase.pay) ∈ _
      split <;> decide
    · by_cases hz : plenOf (storeHdr b s).hdr[3] = 0
      · exact (phaseInv_check (if_pos hz)).mpr ⟨by simp [headerDone, h7], h2, hz.symm, rfl⟩
      · exact (phaseInv_pay (if_neg hz)).mpr ⟨by simp [headerDone, h7], h2, Nat.pos_of_ne_zero hz⟩
  · refine ⟨h.op.keep rfl rfl, h.count.storeHdr b (by omega), h.fifo.keep rfl, h.stores.keep rfl,
      (phaseInv_hdr (s := storeHdr b s) hp).mpr ⟨?_, fun h3 => ?_⟩⟩
    · show s.hcnt + 1 < 8
      omega
    · show (s.hdr.setIfInBounds s.hcnt b)[2] ≠ s.stopCode
      by_cases h2 : s.hcnt = 2
      · simpa [h2] using fun hb => hne ⟨h2, hb⟩
      · have h3 : 3 ≤ s.hcnt + 1 := h3
        rw [Vector.getElem_setIfInBounds_ne _ (by omega)]
        exact hstop (by omega)

/-- A payload byte is stored where it is counted (R201). -/
theorem inv_acceptPay (h : s.Inv) (hp : s.phase = .pay) (he : s.esc = false) (b : Byte) : (acceptPay b s).Inv := by
  obtain ⟨h8, hstop, hlt⟩ := (phaseInv_pay hp).mp h.phase
  have hmax : s.pcnt < payMax := Nat.lt_of_lt_of_le hlt h.count.plen_le
  rw [acceptPay_eq]
  refine ⟨h.op.move .drain rfl (by rw [hp]; decide) ?_,
    h.count.setFrame rfl h.count.hcnt_le h.count.plen_eq hlt h.count.scnt_le h.count.hdr_zero fun i hi => ?_,
    h.fifo.keep rfl, ?_, ?_⟩
  · show (if _ then Phase.check else Phase.pay) ∈ _
    split <;> decide
  · show (memGet (storePaybuf s.pcnt b s).pay i).isSome = true
    simp only [storePaybuf, if_pos hmax]
    exact memGet_memPut_isSome h.stores.pay_wf ((Nat.lt_succ_iff_lt_or_eq.mp hi).symm.imp_right (h.count.pay_written i))
  · have hs := h.stores.storePaybuf s.pcnt b
    exact ⟨h.stores.mem_wf, h.stores.mem_in, hs.pay_wf, hs.pay_in⟩
  · by_cases hlast : s.pcnt + 1 = s.plen
    · exact (phaseInv_check (if_pos hlast)).mpr ⟨h8, hstop, hlast, he⟩
    · refine (phaseInv_pay (if_neg hlast)).mpr ⟨h8, hstop, ?_⟩
      show s.pcnt + 1 < s.plen
      omega

theorem inv_acceptLogical (h : s.Inv) (he : s.esc = false) (b : Byte) : (acceptLogical b s).Inv := by
  unfold acceptLogical
  split
  next hp => exact inv_acceptHdr h hp he b
  next hp => exact inv_acceptPay h hp he b
  all_goals exact h

/-- The phases of a frame ask nothing of eng.esc (R197). -/
theorem inv_setEsc (h : s.Inv) (hp : s.phase = .hdr ∨ s.phase = .pay) : State.Inv { s with esc := true } := by
  refine ⟨h.op.keep rfl rfl, h.count.keep rfl rfl, h.fifo.keep rfl, h.stores.keep rfl, ?_⟩
  rcases hp with hp | hp
  · exact (phaseInv_hdr (s := { s with esc := true }) hp).mpr ((phaseInv_hdr hp).mp h.phase)
  · exact (phaseInv_pay (s := { s with esc := true }) hp).mpr ((phaseInv_pay hp).mp h.phase)

/-- The first raw byte of a stop notification (R199). -/
theorem inv_stopFirst (h : s.Inv) (r : Byte) : State.Inv { s with aux1 := r, scnt := 1 } :=
  ⟨h.op.keep rfl rfl,
    h.count.setFrame rfl h.count.hcnt_le h.count.plen_eq h.count.pcnt_le (Nat.le_refl 1) h.count.hdr_zero
      h.count.pay_written,
    h.fifo.keep rfl, h.stores.keep rfl, h.phase⟩

/-- The second raw byte of a stop notification (R199). -/
theorem inv_stopSecond (h : s.Inv) (hp : s.phase = .stoprd) (r : Byte) :
    State.Inv { s with aux2 := r, kind := .stop, phase := .emit } := by
  obtain ⟨h3, hstop, he⟩ := (phaseInv_stoprd hp).mp h.phase
  exact ⟨h.op.move .drain rfl (by simp [hp, phasesOf]) (by simp [phasesOf]), h.count.keep rfl rfl, h.fifo.keep rfl,
    h.stores.keep rfl, (phaseInv_emit_stop rfl rfl).mpr ⟨he, h3, hstop⟩⟩

/-! ## Every instruction -/

theorem inv_execState (i : Instr) (h : s.Inv) : (execState i s).Inv := by
  cases i with
  | nop => exact h
  | cksum => exact inv_startCk (op := .cksum) h (by decide)
  | verify => exact inv_startCk (op := .verify) h (by decide)
  | sendCmd => exact inv_startOp h fun ha => inv_beginSend h ha
  | tryDecode => exact inv_startDecode (op := .tryDecode) h (by decide)
  | drain => exact inv_startDecode (op := .drain) h (by decide)
  | badOpLow _ => exact inv_startReserved h
  | badOpHigh _ => exact inv_startReserved h
  | abort =>
    show State.Inv (if s.busy then finish .aborted { s with esc := false } else s)
    split
    · exact (inv_clearEsc h).finish _
    · exact h
  | srst => exact inv_softReset h
  | clrwi => exact inv_of_free h ..
  | marker =>
    show State.Inv (if s.phase = .poll then startFrame s else s)
    split
    next hp => exact inv_startFrame h hp
    next => exact h
  | unexpected b =>
    show State.Inv (if s.phase = .poll then _ else s)
    split
    next hp =>
      exact inv_endTryOrPoll (inv_of_free h ..) _ (by simp [hp, phasesOf])
    next => exact h
  | esc =>
    show State.Inv (if inFrame s && !s.esc then { s with esc := true } else s)
    split
    next hif =>
      simp only [inFrame, Bool.and_eq_true, decide_eq_true_eq] at hif
      exact inv_setEsc h hif.1
    next => exact h
  | lit b =>
    show State.Inv (if inFrame s && !s.esc then acceptLogical b s else s)
    split
    next hif =>
      simp only [Bool.and_eq_true, Bool.not_eq_true'] at hif
      exact inv_acceptLogical h hif.2 b
    next => exact h
  | escd r =>
    show State.Inv (if inFrame s && s.esc then acceptLogical (unescape r) { s with esc := false } else s)
    split
    · exact inv_acceptLogical (inv_clearEsc h) rfl _
    · exact h
  | stopb r =>
    show State.Inv (if s.phase = .stoprd then
      (if s.scnt = 0 then { s with aux1 := r, scnt := 1 } else { s with aux2 := r, kind := .stop, phase := .emit })
      else s)
    split
    next hp =>
      split
      · exact inv_stopFirst h r
      · exact inv_stopSecond h hp r
    next => exact h
  | stop b =>
    show State.Inv (if s.phase = .hdr ∧ s.hcnt = 2 ∧ b = s.stopCode then
      enterStop (storeHdr b { s with esc := false }) else s)
    split
    next hif =>
      obtain ⟨hp, h2, rfl⟩ := hif
      exact inv_enterStop (inv_clearEsc h) hp h2 rfl
    next => exact h

/-- Settles O52: instruction by instruction. -/
theorem everyInstructionKeepsTheInvariant : Obligations.EveryInstructionKeepsTheInvariant := by
  intro i s t h hexec
  rw [exec_next_iff] at hexec
  rw [hexec]
  exact inv_execState i h

end Sys2Proof.Machine
end

section
/-! PROOFS. 10_state: every step of every agent keeps the invariant (O51). -/

namespace Sys2Proof.Machine

variable {s t : State}

/-! ## Host accesses -/

/-- A pop leaves what R43 and R44 ask of the entries that stay. -/
theorem inv_readEffect (h : s.Inv) (a : Nat) : (readEffect a s).Inv := by
  have shorter {α : Type} {l : List α} {n : Nat} (hl : l.length ≤ n) : l.tail.length ≤ n := by
    rw [List.length_tail]; omega
  obtain ⟨hparams, hsample, hfdesc, hok⟩ := h.fifo
  rcases readEffect_cases a s with ⟨-, e⟩ | ⟨-, e⟩ | ⟨-, -, e⟩ <;> rw [e]
  · exact ⟨h.op.keep rfl rfl, h.count.keep rfl rfl, ⟨hparams, shorter hsample, hfdesc, hok⟩, h.stores.keep rfl, h.phase⟩
  · exact ⟨h.op.keep rfl rfl, h.count.keep rfl rfl,
      ⟨hparams, hsample, shorter hfdesc, fun d hd => hok d (List.mem_of_mem_tail hd)⟩, h.stores.keep rfl, h.phase⟩
  · exact h

/-- A write of a register or of an aligned TXBUF word keeps the stores' form. -/
theorem State.StoresInv.applyWrite (h : s.StoresInv) {a : Nat} (v : Word) (h4 : a % 4 = 0) :
    (applyWrite a v s).StoresInv := by
  cases ha : inTxbuf a with
  | true => rw [applyWrite_txbuf a v s ha]; exact h.storeWord v h4 ha
  | false => rw [applyWrite_eq, applyWrite_mem a v s ha]; exact h.keep rfl

/-- A write is applied only while the engine is idle, where no operand is in use (R78). -/
theorem inv_applyWrite (h : s.Inv) (hb : s.busy = false) {a : Nat} (v : Word) (h4 : a % 4 = 0) :
    (applyWrite a v s).Inv := by
  obtain ⟨hop, hphase⟩ := h.op.idle hb
  have hstores := h.stores.applyWrite v h4
  rw [applyWrite_eq] at hstores ⊢
  exact ⟨opInv_of_idle hb hop hphase, h.count.keep rfl rfl, h.fifo.keep rfl, hstores, phaseInv_of_idle hphase⟩

theorem inv_hostWrite (h : s.Inv) {a : Nat} (v : Word) (h4 : a % 4 = 0) : (hostWrite a v s).Inv := by
  rcases hostWrite_cases a v s with ⟨-, -, e⟩ | ⟨-, hb, e⟩ | ⟨-, e⟩ <;> rw [e]
  · exact inv_of_free h ..
  · exact inv_applyWrite h hb v h4
  · exact h

/-! ## The engine's turns -/

theorem inv_ckStep (h : s.Inv) : (ckStep s).Inv := by
  unfold ckStep
  split
  · exact State.Inv.finish (inv_of_free h ..) _
  · exact State.Inv.finish (inv_of_free h ..) _
  all_goals exact h

/-- A packet byte sent: one more of it is behind, and after the last the response is awaited (R163). -/
theorem inv_txStep (h : s.Inv) (hp : s.phase = .tx) : (txStep s).Inv := by
  obtain ⟨hlt, hrx⟩ := (phaseInv_tx hp).mp h.phase
  have hrneed := h.count.rneed_range
  unfold txStep
  split
  next b hb =>
    refine ⟨h.op.move .sendCmd rfl (by simp [hp, phasesOf]) ?_,
      h.count.setPacket rfl hlt h.count.txpkt_le hrneed h.count.rxCnt_le, h.fifo.keep rfl, h.stores.keep rfl, ?_⟩
    · show (if _ then Phase.rx else Phase.tx) ∈ _
      split <;> decide
    · by_cases hlast : s.tidx + 1 = s.txpkt.length
      · refine (phaseInv_rx (if_pos hlast)).mpr ⟨hlast, ?_⟩
        show s.rxCnt < s.rneed
        omega
      · refine (phaseInv_tx (if_neg hlast)).mpr ⟨?_, hrx⟩
        show s.tidx + 1 < s.txpkt.length
        omega
  next => exact h

/-- A byte read after one of RXBUF was written (R39). -/
theorem readByte_storeRxbuf (hm : Memory.wf s.mem) {i : Nat} (hi : i < bufSize) (b : Byte) (k : Nat) :
    readByte (storeRxbuf i b s) k = if k = rxbufBase + i then b else readByte s k := by
  unfold storeRxbuf
  rw [if_pos hi, readByte_storeByte _ _ _ _ hm]

/-- A byte received is stored at RXBUF[RX_CNT], and every other byte stays (R164). -/
theorem readByte_rxStep (hm : Memory.wf s.mem) (hi : s.rxCnt < bufSize) (r : Byte) (k : Nat) :
    readByte (rxStep r s) k = if k = rxbufBase + s.rxCnt then r else readByte s k :=
  readByte_storeRxbuf hm hi r k

/-- A byte received does not change the packet's source: no byte of TXBUF is one of RXBUF (R21, R85). -/
theorem txBytes_rxStep (hm : Memory.wf s.mem) (hi : s.rxCnt < bufSize) {n : Nat} (hn : n ≤ bufSize) (r : Byte) :
    txBytes (rxStep r s) n = txBytes s n := by
  refine List.map_congr_left fun k hk => ?_
  have hkn := List.mem_range.mp hk
  unfold txbuf
  rw [readByte_rxStep hm hi, if_neg]
  simp only [bufSize, txbufBase, rxbufBase] at *; omega

/-- SEND_CMD alone has the phases of a packet (R44). -/
theorem State.OpInv.sendCmd (h : s.OpInv) (hp : s.phase ∈ phasesOf .sendCmd) : s.op = .sendCmd := by
  have e := phasesOf_eq_of_mem hp h.phase_op
  cases ho : s.op <;> simp [ho, phasesOf] at e ⊢

/-- A response byte received: one more is counted, and the last ends the reading (R164). -/
theorem inv_rxStep (h : s.Inv) (hp : s.phase = .rx) (r : Byte) : (rxStep r s).Inv := by
  obtain ⟨htidx, hlt⟩ := (phaseInv_rx hp).mp h.phase
  have hsend : s.phase ∈ phasesOf .sendCmd := by simp [hp, phasesOf]
  have hrxCnt : s.rxCnt < bufSize := Nat.lt_of_lt_of_le hlt h.count.rneed_range.2
  have htxLen : s.txLen.toNat ≤ txLenMax := by
    have ha := h.op.args
    rw [h.op.sendCmd hsend] at ha
    exact (of_decide_eq_true ha).1
  have hsource := txBytes_rxStep h.stores.mem_wf hrxCnt htxLen r
  have hstores := h.stores.storeRxbuf s.rxCnt r
  rw [rxStep_eq] at hsource ⊢
  refine ⟨h.op.move .sendCmd ?_ hsend ?_,
    h.count.setPacket rfl h.count.tidx_le h.count.txpkt_le h.count.rneed_range hlt, h.fifo.keep rfl,
    ⟨hstores.mem_wf, hstores.mem_in, h.stores.pay_wf, h.stores.pay_in⟩, ?_⟩
  · exact congrArg
      (fun l => ((s.busy, s.done, s.result, s.op), (s.cmd, s.txLen, s.respLen, s.txpkt, s.rneed, l))) hsource
  · show (if _ then Phase.rchk else Phase.rx) ∈ _
    split <;> decide
  · by_cases hlast : s.rxCnt + 1 = s.rneed
    · exact (phaseInv_rchk (if_pos hlast)).mpr ⟨htidx, hlast⟩
    · refine (phaseInv_rx (if_neg hlast)).mpr ⟨htidx, ?_⟩
      show s.rxCnt + 1 < s.rneed
      omega

/-- The frame check: a good frame waits in EMIT, a bad one is dropped (R202, R203). -/
theorem inv_checkStep (h : s.Inv) (hp : s.phase = .check) : (checkStep s).Inv := by
  obtain ⟨h8, hstop, hpcnt, he⟩ := (phaseInv_check hp).mp h.phase
  have hdrain : s.phase ∈ phasesOf .drain := by simp [hp, phasesOf]
  rcases checkStep_cases s with ⟨-, e⟩ | ⟨-, e⟩ <;> rw [e]
  · exact ⟨h.op.move .drain rfl hdrain (by simp [phasesOf]), h.count.keep rfl rfl, h.fifo.keep rfl, h.stores.keep rfl,
      (phaseInv_emit_data rfl rfl).mpr ⟨he, h8, hstop, hpcnt⟩⟩
  · exact inv_endTryOrPoll (inv_of_free h ..) _ hdrain

/-- A descriptor counts at most 125 samples, and a stop none (R43). -/
theorem emitDesc_ok (hplen : s.plen ≤ payMax) :
    (emitDesc s).nsamp.toNat ≤ 125 ∧ ((emitDesc s).kind = .stop → (emitDesc s).nsamp = 0) := by
  simp only [payMax] at hplen
  cases hk : s.kind with
  | data =>
    simp only [emitDesc, hk, BitVec.toNat_ofNat]
    exact ⟨by omega, fun e => nomatch e⟩
  | stop => simp [emitDesc, hk]

/-- A frame that has room leaves both FIFOs within their depths (R205). -/
theorem State.FifoInv.pushFrame (h : s.FifoInv) (hroom : emitRoom s = true) (hplen : s.plen ≤ payMax) :
    (pushFrame s).FifoInv := by
  obtain ⟨hsample, hfdesc⟩ := (emitRoom_iff s).mp hroom
  refine ⟨h.params_ok, ?_, ?_, fun d hd => ?_⟩
  · show (s.sample ++ emitCodes s).length ≤ _
    rw [List.length_append, emitCodes_length]; exact hsample
  · show (s.fdesc ++ [emitDesc s]).length ≤ _
    rw [List.length_append]; exact hfdesc
  · rcases List.mem_append.mp hd with hd | hd
    · exact h.fdesc_ok d hd
    · rw [List.mem_singleton.mp hd]; exact emitDesc_ok hplen

/-- A frame that has room may be pushed: no phase asks anything of the FIFOs (R204). -/
theorem inv_pushFrame (h : s.Inv) (hroom : emitRoom s = true) : (pushFrame s).Inv :=
  ⟨h.op.keep rfl rfl, h.count.keep rfl rfl, h.fifo.pushFrame hroom h.count.plen_le, h.stores.keep rfl, h.phase⟩

theorem inv_emitStep (h : s.Inv) (hp : s.phase = .emit) : (emitStep s).Inv := by
  rcases emitStep_cases s with ⟨-, e⟩ | ⟨hroom, -, e⟩ | ⟨hroom, -, e⟩ <;> rw [e]
  · exact h
  · exact inv_endTryOrPoll (inv_of_free (inv_pushFrame h hroom) ..) _ (by simp [pushFrame, hp, phasesOf])
  · exact (inv_pushFrame h hroom).finish _

/-! ## Every step -/

theorem Move.inv (hm : Move s t) (h : s.Inv) : t.Inv := by
  cases hm with
  | still => exact h
  | busError => exact inv_of_free h ..
  | read a => exact inv_of_free (inv_readEffect h a) ..
  | write a v h4 => exact inv_hostWrite (inv_of_free h ..) v h4
  | hostInstr _ _ i => exact inv_execState i (inv_of_free h ..)
  | acknowledge => exact inv_of_free h ..
  | ck => exact inv_ckStep h
  | transmit hp => exact inv_txStep h hp
  | receive r rest hp => exact inv_rxStep (s := { s with rx := rest }) (inv_of_free h ..) hp r
  | rchk => exact State.Inv.finish (inv_of_free h ..) _
  | timeout => exact h.finish _
  | pollEmpty => exact h.finish _
  | token _ rest i => exact inv_execState i (inv_of_free h ..)
  | check hp => exact inv_checkStep h hp
  | emit hp => exact inv_emitStep h hp
  | deliver => exact inv_of_free h ..
  | powerOn => exact inv_powerOnReset h

/-- Settles O51: a step is no change or one move, and every move keeps the invariant. -/
theorem everyStepKeepsTheInvariant : Obligations.EveryStepKeepsTheInvariant := by
  intro s t h hs
  rcases step_cases hs with ⟨-, rfl⟩ | ⟨e, rest, -, hm⟩
  · exact h
  · exact hm.inv (inv_of_free h ..)

end Sys2Proof.Machine
end

section
/-! PROOFS. 10_state: the reset values (O15), and how a step may change the FIFOs (O55) and the event counters (O56). -/

namespace Sys2Proof.Machine

variable {s t : State}

/-- Settles O15: R47's values, field by field, were evaluated above. -/
theorem resetHasTheSpecsValues : Obligations.ResetHasTheSpecsValues := reset_atResetValues

/-! ## What the parts of a step do to the FIFOs and the event counters -/

/-- The FIFOs, DROP_CNT and UNEXP_CNT (R35, R36, R42, R43). -/
def State.eventFields (s : State) : List Half × List FDesc × Word × Word := (s.sample, s.fdesc, s.dropCnt, s.unexpCnt)

@[simp] theorem endTryOrPoll_eventFields (r : Result) (s : State) : (endTryOrPoll r s).eventFields = s.eventFields := by
  rcases endTryOrPoll_cases r s with ⟨-, e⟩ | ⟨-, e⟩ <;> rw [e] <;> rfl

@[simp] theorem startReserved_eventFields (s : State) : (startReserved s).eventFields = s.eventFields := by
  rcases startReserved_cases s with ⟨-, e⟩ | ⟨-, e⟩ <;> rw [e] <;> rfl

theorem startOp_eventFields (op : Op) {begin : State → State} (hbegin : ∀ u, (begin u).eventFields = u.eventFields)
    (s : State) : (startOp op begin s).eventFields = s.eventFields := by
  rcases startOp_cases op begin s with ⟨-, e⟩ | ⟨-, -, e⟩ | ⟨-, -, e⟩ <;> rw [e]
  · rfl
  · exact hbegin _
  · rfl

@[simp] theorem acceptLogical_eventFields (b : Byte) (s : State) : (acceptLogical b s).eventFields = s.eventFields := by
  unfold acceptLogical
  split
  · rcases acceptHdr_cases b s with ⟨-, -, e⟩ | ⟨-, e⟩ | ⟨-, -, e⟩ <;> rw [e] <;> rfl
  · rw [acceptPay_eq]; rfl
  all_goals rfl

@[simp] theorem ckStep_eventFields (s : State) : (ckStep s).eventFields = s.eventFields := by
  unfold ckStep; split <;> rfl

@[simp] theorem txStep_eventFields (s : State) : (txStep s).eventFields = s.eventFields := by
  unfold txStep; split <;> rfl

@[simp] theorem rxStep_eventFields (r : Byte) (s : State) : (rxStep r s).eventFields = s.eventFields := by
  rw [rxStep_eq]; rfl

@[simp] theorem hostWrite_eventFields (a : Nat) (v : Word) (s : State) :
    (hostWrite a v s).eventFields = s.eventFields := by
  rcases hostWrite_cases a v s with ⟨-, -, e⟩ | ⟨-, -, e⟩ | ⟨-, e⟩ <;> rw [e]
  · rfl
  · rw [applyWrite_eq]; rfl

/-! ## What a step does to them -/

/-- All a step can make of the FIFOs and the event counters. -/
inductive EventMove (s t : State) : Prop where
  | keep (e : t.eventFields = s.eventFields)
  /-- A byte in POLL that is no marker (R195). -/
  | unexpected (hp : s.phase = .poll) (e : t.eventFields = (s.sample, s.fdesc, s.dropCnt, s.unexpCnt + 1))
  /-- A frame whose checksum does not match (R203). -/
  | drop (hp : s.phase = .check) (e : t.eventFields = (s.sample, s.fdesc, s.dropCnt + 1, s.unexpCnt))
  /-- A read of SAMPLE or of FDESC (R77). -/
  | popSample (e : t.eventFields = (s.sample.tail, s.fdesc, s.dropCnt, s.unexpCnt))
  | popFdesc (e : t.eventFields = (s.sample, s.fdesc.tail, s.dropCnt, s.unexpCnt))
  /-- A frame that has room (R204, R205). -/
  | push (hp : s.phase = .emit) (hroom : emitRoom s = true)
      (e : t.eventFields = (s.sample ++ emitCodes s, s.fdesc ++ [emitDesc s], s.dropCnt, s.unexpCnt))
  | reset (e : t.eventFields = ([], [], 0, 0)) (h : t.AtResetValues)

/-- Of the instructions SRST empties the FIFOs, an unexpected byte is counted, and no other touches them. -/
theorem execState_eventMove (i : Instr) (s : State) : EventMove s (execState i s) := by
  cases i with
  | nop => exact .keep rfl
  | cksum => exact .keep (startOp_eventFields _ (fun _ => by rfl) s)
  | verify => exact .keep (startOp_eventFields _ (fun _ => by rfl) s)
  | sendCmd => exact .keep (startOp_eventFields _ (fun _ => by rfl) s)
  | tryDecode => exact .keep (startOp_eventFields _ (fun _ => by rfl) s)
  | drain => exact .keep (startOp_eventFields _ (fun _ => by rfl) s)
  | badOpLow _ => exact .keep (startReserved_eventFields s)
  | badOpHigh _ => exact .keep (startReserved_eventFields s)
  | abort =>
    show EventMove s (if s.busy then finish .aborted { s with esc := false } else s)
    split <;> exact .keep rfl
  | srst => exact .reset rfl (softReset_atResetValues s)
  | clrwi => exact .keep rfl
  | marker =>
    show EventMove s (if s.phase = .poll then startFrame s else s)
    split <;> exact .keep rfl
  | unexpected b =>
    show EventMove s (if s.phase = .poll then _ else s)
    split
    next hp => exact .unexpected hp (endTryOrPoll_eventFields _ _)
    next => exact .keep rfl
  | esc =>
    show EventMove s (if inFrame s && !s.esc then { s with esc := true } else s)
    split <;> exact .keep rfl
  | lit b =>
    show EventMove s (if inFrame s && !s.esc then acceptLogical b s else s)
    split
    · exact .keep (acceptLogical_eventFields b s)
    · exact .keep rfl
  | escd r =>
    show EventMove s (if inFrame s && s.esc then acceptLogical (unescape r) { s with esc := false } else s)
    split
    · exact .keep (acceptLogical_eventFields _ _)
    · exact .keep rfl
  | stopb r =>
    show EventMove s (if s.phase = .stoprd then
      (if s.scnt = 0 then { s with aux1 := r, scnt := 1 } else { s with aux2 := r, kind := .stop, phase := .emit })
      else s)
    (repeat' split) <;> exact .keep rfl
  | stop b =>
    show EventMove s (if s.phase = .hdr ∧ s.hcnt = 2 ∧ b = s.stopCode then
      enterStop (storeHdr b { s with esc := false }) else s)
    split <;> exact .keep rfl

/-- A state apart in the streams, the bus answer and the steps to come makes the same moves. -/
theorem EventMove.of_outside {rx : List Byte} {resp : Option Response} {script : List Event}
    (h : EventMove { s with rx, resp, script } t) : EventMove s t := by
  cases h with
  | keep e => exact .keep e
  | unexpected hp e => exact .unexpected hp e
  | drop hp e => exact .drop hp e
  | popSample e => exact .popSample e
  | popFdesc e => exact .popFdesc e
  | push hp hroom e => exact .push hp hroom e
  | reset e h => exact .reset e h

theorem hostRead_eventMove (a : Nat) (s : State) : EventMove s (hostRead a s) := by
  unfold hostRead
  rcases readEffect_cases a s with ⟨-, e⟩ | ⟨-, e⟩ | ⟨-, -, e⟩ <;> rw [e]
  · exact .popSample rfl
  · exact .popFdesc rfl
  · exact .keep rfl

theorem checkStep_eventMove (hp : s.phase = .check) : EventMove s (checkStep s) := by
  rcases checkStep_cases s with ⟨-, e⟩ | ⟨-, e⟩ <;> rw [e]
  · exact .keep rfl
  · exact .drop hp (endTryOrPoll_eventFields _ _)

theorem emitStep_eventMove (hp : s.phase = .emit) : EventMove s (emitStep s) := by
  rcases emitStep_cases s with ⟨-, e⟩ | ⟨hroom, -, e⟩ | ⟨hroom, -, e⟩ <;> rw [e]
  · exact .keep rfl
  · exact .push hp hroom (endTryOrPoll_eventFields _ _)
  · exact .push hp hroom rfl

theorem Move.eventMove (hm : Move s t) : EventMove s t := by
  cases hm with
  | still => exact .keep rfl
  | busError => exact .keep rfl
  | read a => exact hostRead_eventMove a s
  | write a v => exact .keep (hostWrite_eventFields a v _)
  | hostInstr _ _ i => exact (execState_eventMove i (respond false 0 s)).of_outside
  | acknowledge => exact .keep rfl
  | ck => exact .keep (ckStep_eventFields s)
  | transmit => exact .keep (txStep_eventFields s)
  | receive r rest => exact .keep (rxStep_eventFields r _)
  | rchk => exact .keep rfl
  | timeout => exact .keep rfl
  | pollEmpty => exact .keep rfl
  | token _ rest i => exact (execState_eventMove i { s with rx := rest }).of_outside
  | check hp => exact checkStep_eventMove hp
  | emit hp => exact emitStep_eventMove hp
  | deliver => exact .keep rfl
  | powerOn => exact .reset rfl (powerOnReset_atResetValues s)

theorem step_eventMove (hs : step s = .next t) : EventMove s t := by
  rcases step_cases hs with ⟨-, rfl⟩ | ⟨e, rest, -, hm⟩
  · exact .keep rfl
  · exact hm.eventMove.of_outside

theorem eventFields_eq_iff {a : List Half} {b : List FDesc} {c d : Word} :
    t.eventFields = (a, b, c, d) ↔ t.sample = a ∧ t.fdesc = b ∧ t.dropCnt = c ∧ t.unexpCnt = d := by
  simp [State.eventFields]

/-- Settles O55: the FIFOs' part of each move of a step. -/
theorem fifosPopOldestOrTakeAWholeFrame : Obligations.FifosPopOldestOrTakeAWholeFrame := by
  intro s t hs
  cases step_eventMove hs with
  | keep e =>
    obtain ⟨hsample, hfdesc, -, -⟩ := eventFields_eq_iff.mp e
    exact .inl ⟨hsample, hfdesc⟩
  | unexpected _ e =>
    obtain ⟨hsample, hfdesc, -, -⟩ := eventFields_eq_iff.mp e
    exact .inl ⟨hsample, hfdesc⟩
  | drop _ e =>
    obtain ⟨hsample, hfdesc, -, -⟩ := eventFields_eq_iff.mp e
    exact .inl ⟨hsample, hfdesc⟩
  | popSample e =>
    obtain ⟨hsample, hfdesc, -, -⟩ := eventFields_eq_iff.mp e
    exact .inr (.inl ⟨hsample, hfdesc⟩)
  | popFdesc e =>
    obtain ⟨hsample, hfdesc, -, -⟩ := eventFields_eq_iff.mp e
    exact .inr (.inr (.inl ⟨hsample, hfdesc⟩))
  | push hp hroom e =>
    obtain ⟨hsample, hfdesc, -, -⟩ := eventFields_eq_iff.mp e
    obtain ⟨hsroom, hfroom⟩ := (emitRoom_iff s).mp hroom
    refine .inr (.inr (.inr (.inl ⟨hp, hsample, hfdesc, ?_, ?_⟩)))
    · rw [hsample, List.length_append, emitCodes_length]; exact hsroom
    · rw [hfdesc, List.length_append]; exact hfroom
  | reset e h =>
    obtain ⟨hsample, hfdesc, -, -⟩ := eventFields_eq_iff.mp e
    exact .inr (.inr (.inr (.inr ⟨hsample, hfdesc, h⟩)))

/-- Settles O56: the counters' part of each move of a step. -/
theorem eventCountersOnlyCountOrReset : Obligations.EventCountersOnlyCountOrReset := by
  intro s t hs
  have kept {a : List Half} {b : List FDesc} (e : t.eventFields = (a, b, s.dropCnt, s.unexpCnt)) :
      (t.dropCnt = s.dropCnt ∨ (s.phase = .check ∧ t.dropCnt = s.dropCnt + 1)) ∧
      (t.unexpCnt = s.unexpCnt ∨ (s.phase = .poll ∧ t.unexpCnt = s.unexpCnt + 1)) := by
    obtain ⟨-, -, hdrop, hunexp⟩ := eventFields_eq_iff.mp e
    exact ⟨.inl hdrop, .inl hunexp⟩
  cases step_eventMove hs with
  | keep e => exact .inr (kept e)
  | unexpected hp e =>
    obtain ⟨-, -, hdrop, hunexp⟩ := eventFields_eq_iff.mp e
    exact .inr ⟨.inl hdrop, .inr ⟨hp, hunexp⟩⟩
  | drop hp e =>
    obtain ⟨-, -, hdrop, hunexp⟩ := eventFields_eq_iff.mp e
    exact .inr ⟨.inr ⟨hp, hdrop⟩, .inl hunexp⟩
  | popSample e => exact .inr (kept e)
  | popFdesc e => exact .inr (kept e)
  | push _ _ e => exact .inr (kept e)
  | reset _ h => exact .inl h

end Sys2Proof.Machine
end

section
/-! PROOFS. 10_state: what a host read answers (O19) and removes (O20). -/

namespace Sys2Proof.Machine

variable {s t : State}

/-! ## The register layouts as sums -/

theorem statusWord_toNat (s : State) : (statusWord s).toNat =
    s.busy.toNat + 2 * s.done.toNat + 16 * s.result.code.toNat + 256 * s.wrIgnored.toNat := by
  simp only [statusWord, append_toNat, BitVec.toNat_ofBool, BitVec.toNat_ofNat]; omega

theorem cfgWord_toNat (s : State) : (cfgWord s).toNat = s.toEn.toNat + 256 * s.stopCode.toNat := by
  simp only [cfgWord, append_toNat, BitVec.toNat_ofBool, BitVec.toNat_ofNat]; omega

theorem ckregWord_toNat (s : State) : (ckregWord s).toNat = s.ckCalc.toNat + 65536 * s.ckClaim.toNat := by
  simp only [ckregWord, append_toNat]; omega

theorem respInfoWord_toNat (s : State) : (respInfoWord s).toNat =
    s.echo.toNat + 256 * s.respField.toNat + 65536 * (s.rxCnt % 1024) := by
  simp only [respInfoWord, append_toNat, BitVec.toNat_ofNat]; omega

theorem hdrLoWord_toNat (s : State) : (hdrLoWord s).toNat =
    s.hdr[0].toNat + 256 * s.hdr[1].toNat + 65536 * s.hdr[2].toNat + 16777216 * s.hdr[3].toNat := by
  simp only [hdrLoWord, append_toNat]; omega

theorem hdrHiWord_toNat (s : State) : (hdrHiWord s).toNat =
    s.hdr[4].toNat + 256 * s.hdr[5].toNat + 65536 * s.hdr[6].toNat + 16777216 * s.hdr[7].toNat := by
  simp only [hdrHiWord, append_toNat]; omega

theorem frameAuxWord_toNat (s : State) : (frameAuxWord s).toNat =
    s.aux1.toNat + 256 * s.aux2.toNat + 65536 * (s.hcnt % 16) + 16777216 * (s.plen % 256) := by
  simp only [frameAuxWord, append_toNat, BitVec.toNat_ofNat]; omega

theorem fifoLvlWord_toNat (s : State) : (fifoLvlWord s).toNat =
    s.sample.length % 65536 + 65536 * (s.fdesc.length % 65536) := by
  simp only [fifoLvlWord, append_toNat, BitVec.toNat_ofNat]; omega

/-- VALID is bit 31, and a code is below it (R42). -/
theorem sampleWord_eq (c : Half) : sampleWord c = 0x80000000#32 ||| zext32 c := by
  have hc : c.toNat < 2 ^ 31 := by have := c.isLt; omega
  have hor : 2 ^ 31 + c.toNat = 2 ^ 31 ||| c.toNat := by simpa using Nat.two_pow_add_eq_or_of_lt hc 1
  apply BitVec.eq_of_toNat_eq
  calc (sampleWord c).toNat = 2 ^ 31 + c.toNat := by
        simp only [sampleWord, append_toNat, BitVec.toNat_ofNat]; omega
    _ = (0x80000000#32 ||| zext32 c).toNat := by
        rw [hor, BitVec.toNat_or, zext32, BitVec.toNat_setWidth_of_le (by decide)]; rfl

theorem fdescWord_toNat (d : FDesc) : (fdescWord d).toNat =
    d.chanRaw.toNat + 256 * d.nsamp.toNat + 65536 * ((d.chanRaw.toNat + 255) % 256) +
      16777216 * (if d.kind = .data then 1 else 2) + 2147483648 := by
  have hchan : (chan0 d.chanRaw).toNat = (d.chanRaw.toNat + 255) % 256 := by
    simp only [chan0]; bv_omega
  simp only [fdescWord, append_toNat, hchan]
  cases d.kind <;> simp [Kind.code] <;> omega

/-! ## The value above the registers -/

theorem readValue_above_registers {a : Nat} (ha : 0x048 ≤ a) :
    readValue a s = if inTxbuf a || inRxbuf a then readWord s a else 0 := by
  have hne : ∀ r, r < 0x048 → ¬a = r := fun r hr => by omega
  simp (disch := decide) only [readValue, hne, if_false]

theorem readValue_buffer {a : Nat} (hlo : 0x200 ≤ a) (hhi : a < 0x600) : readValue a s = readWord s a := by
  rw [readValue_above_registers (by omega), if_pos]
  rw [Bool.or_eq_true, inTxbuf_iff, inRxbuf_iff]; omega

theorem readValue_reserved {a : Nat} (ha : 0x048 ≤ a ∧ a < 0x200 ∨ 0x600 ≤ a) : readValue a s = 0 := by
  rw [readValue_above_registers (by omega), if_neg]
  rw [Bool.or_eq_true, inTxbuf_iff, inRxbuf_iff]; omega

/-! ## A read step -/

theorem step_read {a : Offset} {later : List Event} (h4 : a.toNat % 4 = 0)
    (hs : s.script = .host a ⟨4, .read⟩ :: later) : step s = .next (hostRead a.toNat { s with script := later }) := by
  rw [step_host hs, hostAccess_read h4, settle_done]

/-- A read of any offset but SAMPLE and FDESC only answers (R77). -/
theorem hostRead_of_no_pop {a : Nat} (h40 : a ≠ 0x040) (h44 : a ≠ 0x044) :
    hostRead a s = respond false (readValue a s) s := by
  rcases readEffect_cases a s with ⟨ha, -⟩ | ⟨ha, -⟩ | ⟨-, -, e⟩
  · exact absurd ha h40
  · exact absurd ha h44
  · rw [hostRead, e]

theorem hostRead_sample (s : State) :
    hostRead 0x040 s = respond false ((s.sample.head?.map sampleWord).getD 0) { s with sample := s.sample.tail } := rfl

theorem hostRead_fdesc (s : State) :
    hostRead 0x044 s = respond false ((s.fdesc.head?.map fdescWord).getD 0) { s with fdesc := s.fdesc.tail } := rfl

/-- An empty FIFO stays as it is. -/
theorem hostRead_sample_empty (h : s.sample = []) : hostRead 0x040 s = respond false 0 s := by
  rw [hostRead_sample, h]; obtain ⟨⟩ := s; simp only at h; subst h; rfl

theorem hostRead_fdesc_empty (h : s.fdesc = []) : hostRead 0x044 s = respond false 0 s := by
  rw [hostRead_fdesc, h]; obtain ⟨⟩ := s; simp only at h; subst h; rfl

/-- Settles O19: each register by its layout, the buffers by their words, and 0 elsewhere. -/
theorem readAnswersTheRegisterLayout : Obligations.ReadAnswersTheRegisterLayout := by
  intro s a rest hs h4
  refine ⟨_, readValue a.toNat s, step_read h4 hs, rfl, ?ctrl, ?status, ?cfg, ?cmdId, ?txLen, ?respLen, ?ckreg, ?txck,
    ?respInfo, ?hdrLo, ?hdrHi, ?frameAux, ?nframes, ?dropCnt, ?unexpCnt, ?fifoLvl, ?buffer, ?reserved⟩
  case buffer =>
    rintro ⟨hlo, hhi⟩
    rw [readValue_buffer hlo hhi, readWord_toNat]; omega
  case reserved => exact readValue_reserved
  all_goals intro ha; rw [ha]
  case ctrl => rfl
  case status => exact statusWord_toNat s
  case cfg => exact cfgWord_toNat s
  case cmdId => exact BitVec.toNat_setWidth_of_le (show 8 ≤ 32 by decide)
  case txLen => exact BitVec.toNat_setWidth_of_le (show 10 ≤ 32 by decide)
  case respLen => exact BitVec.toNat_setWidth_of_le (show 10 ≤ 32 by decide)
  case ckreg => exact ckregWord_toNat s
  case txck => exact BitVec.toNat_setWidth_of_le (show 16 ≤ 32 by decide)
  case respInfo => exact respInfoWord_toNat s
  case hdrLo => exact hdrLoWord_toNat s
  case hdrHi => exact hdrHiWord_toNat s
  case frameAux => exact frameAuxWord_toNat s
  case nframes => rfl
  case dropCnt => rfl
  case unexpCnt => rfl
  case fifoLvl => exact fifoLvlWord_toNat s

/-- Settles O20: the two pops, each on an empty FIFO and on its oldest entry, and the reads that pop nothing. -/
theorem readsPopOnlyTheFifos : Obligations.ReadsPopOnlyTheFifos := by
  intro s a rest hs h4
  have hstep := step_read h4 hs
  refine ⟨fun ha he => ?_, fun c cs ha hc => ?_, fun ha he => ?_, fun d ds ha hd => ?_, fun h40 h44 => ?_⟩
  · rw [hstep, ha, hostRead_sample_empty (s := { s with script := rest }) he]; rfl
  · rw [hstep, ha, hostRead_sample, hc, ← sampleWord_eq]; rfl
  · rw [hstep, ha, hostRead_fdesc_empty (s := { s with script := rest }) he]; rfl
  · refine ⟨fdescWord d, ?_, fdescWord_toNat d⟩
    rw [hstep, ha, hostRead_fdesc, hd]; rfl
  · refine ⟨readValue a.toNat s, ?_⟩
    rw [hstep, hostRead_of_no_pop h40 h44]; rfl

end Sys2Proof.Machine
end

section
/-! PROOFS. 10_state: a written register reads back its field bits (O21), and a TXBUF word its bytes (O22). -/

namespace Sys2Proof.Machine

variable {s t : State}

/-! ## Fields and bytes of a word -/

/-- The low bits of a word, the rest 0, are the word under a mask of ones. -/
theorem setWidth_extractLsb'_zero (v : Word) (n : Nat) :
    (v.extractLsb' 0 n).setWidth 32 = v &&& BitVec.ofNat 32 (2 ^ n - 1) := by
  apply BitVec.eq_of_getLsbD_eq
  intro i hi
  simp only [BitVec.getLsbD_setWidth, BitVec.getLsbD_extractLsb', BitVec.getLsbD_and, BitVec.getLsbD_ofNat,
    Nat.testBit_two_pow_sub_one, hi, decide_true, Bool.true_and, Nat.zero_add]
  exact Bool.and_comm ..

/-- STOP_CODE and TO_EN of a word, the rest 0 (R24). -/
theorem cfgFields_eq_and (v : Word) :
    0#16 ++ v.extractLsb' 8 8 ++ 0#7 ++ BitVec.ofBool (v.getLsbD 0) = v &&& 0xFF01#32 := by
  apply BitVec.eq_of_getLsbD_eq
  intro i hi
  simp only [BitVec.getLsbD_append, BitVec.getLsbD_and]
  interval_cases i <;> simp

/-- A word is its four bytes (R76). -/
theorem word_of_bytes (v : Word) :
    v.extractLsb' 24 8 ++ v.extractLsb' 16 8 ++ v.extractLsb' 8 8 ++ v.extractLsb' 0 8 = v := by
  have := v.isLt
  apply BitVec.eq_of_toNat_eq
  simp only [append_toNat, BitVec.extractLsb'_toNat, Nat.shiftRight_eq_div_pow]; omega

/-! ## Idle writes, and reading back -/

theorem step_write_idle {a : Offset} {v : Word} {rest : List Event} (hb : s.busy = false) (h4 : a.toNat % 4 = 0)
    (hw : writable a.toNat = true) (hs : s.script = .host a ⟨4, .write v⟩ :: rest) :
    step s = .next (applyWrite a.toNat v (respond false 0 { s with script := rest })) := by
  have h8 : 8 ≤ a.toNat := by
    have := (writable_iff _).mp hw
    omega
  rw [step_host hs, hostAccess_write h4 h8, settle_done]
  rcases hostWrite_cases a.toNat v (respond false 0 { s with script := rest }) with ⟨-, hb', -⟩ | ⟨-, -, e⟩ | ⟨hw', -⟩
  · exact absurd (hb.symm.trans hb') Bool.false_ne_true
  · rw [e]
  · exact absurd (hw.symm.trans hw') Bool.noConfusion

/-- A read step of an offset that pops nothing answers the value there. -/
theorem step_readBack {a : Offset} {w : Word} (h4 : a.toNat % 4 = 0) (h40 : a.toNat ≠ 0x040) (h44 : a.toNat ≠ 0x044)
    (hv : readValue a.toNat t = w) (later : List Event) :
    step { t with script := .host a ⟨4, .read⟩ :: later } =
      .next { t with script := later, resp := some ⟨false, w⟩ } := by
  rw [step_read h4 rfl, hostRead_of_no_pop h40 h44, ← hv]; rfl

theorem readValue_applyWrite_cfg (v : Word) (s : State) :
    readValue 0x008 (applyWrite 0x008 v s) = v &&& 0xFF01#32 := cfgFields_eq_and v

theorem readValue_applyWrite_cmdId (v : Word) (s : State) :
    readValue 0x00C (applyWrite 0x00C v s) = v &&& 0xFF#32 := setWidth_extractLsb'_zero v 8

theorem readValue_applyWrite_txLen (v : Word) (s : State) :
    readValue 0x010 (applyWrite 0x010 v s) = v &&& 0x3FF#32 := setWidth_extractLsb'_zero v 10

theorem readValue_applyWrite_respLen (v : Word) (s : State) :
    readValue 0x014 (applyWrite 0x014 v s) = v &&& 0x3FF#32 := setWidth_extractLsb'_zero v 10

/-- Settles O21: register by register, the write as it is applied and the value it reads back as. -/
theorem writtenRegisterReadsItsFieldBits : Obligations.WrittenRegisterReadsItsFieldBits := by
  intro s v a mask rest hb hs hreg
  rcases hreg with ⟨rfl, rfl⟩ | ⟨rfl, rfl⟩ | ⟨rfl, rfl⟩ | ⟨rfl, rfl⟩ <;>
    refine ⟨_, 0, step_write_idle hb (by decide) (by decide) hs,
      step_readBack (by decide) (by decide) (by decide) ?_, rfl⟩
  · exact readValue_applyWrite_cfg v _
  · exact readValue_applyWrite_cmdId v _
  · exact readValue_applyWrite_txLen v _
  · exact readValue_applyWrite_respLen v _

/-! ## TXBUF words -/

/-- Byte j of the word written, in bits 8j+7:8j (R76). -/
theorem readByte_storeWord_lane (hm : Memory.wf s.mem) (a : Nat) (v : Word) {j : Nat} (hj : j < 4) :
    readByte (storeWord a v s) (a + j) = v.extractLsb' (8 * j) 8 := by
  rw [readByte_storeWord s a (a + j) v hm]
  interval_cases j <;> simp

theorem readByte_storeWord_elsewhere (hm : Memory.wf s.mem) {a k : Nat} (v : Word) (hk : k < a ∨ a + 4 ≤ k) :
    readByte (storeWord a v s) k = readByte s k := by
  rw [readByte_storeWord s a k v hm, if_neg (by omega), if_neg (by omega), if_neg (by omega), if_neg (by omega)]

theorem readWord_storeWord (hm : Memory.wf s.mem) (a : Nat) (v : Word) : readWord (storeWord a v s) a = v := by
  have lane {j : Nat} (hj : j < 4) := readByte_storeWord_lane hm a v hj
  have lowest : readByte (storeWord a v s) a = v.extractLsb' 0 8 := lane (j := 0) (by decide)
  rw [readWord, lane (j := 3) (by decide), lane (j := 2) (by decide), lane (j := 1) (by decide), lowest]
  exact word_of_bytes v

/-- Settles O22: the word is stored byte by byte and nothing else changes. -/
theorem txbufWordIsLittleEndian : Obligations.TxbufWordIsLittleEndian := by
  intro s v a rest hm hb hs hlo hhi h4
  have hstep := step_write_idle hb h4 ((writable_iff _).mpr (.inr ⟨hlo, hhi⟩)) hs
  rw [applyWrite_txbuf _ _ _ ((inTxbuf_iff _).mpr ⟨hlo, hhi⟩)] at hstep
  have hm' : Memory.wf (respond false 0 { s with script := rest }).mem := hm
  refine ⟨_, 0, hstep, fun j hj => readByte_storeWord_lane hm' a.toNat v hj,
    fun k hk => readByte_storeWord_elsewhere hm' v hk, ?_, storeWord_eq a.toNat v _⟩
  refine step_readBack h4 (by omega) (by omega) ?_
  rw [readValue_buffer hlo (by omega)]
  exact readWord_storeWord hm' a.toNat v

end Sys2Proof.Machine
end

section
/-! PROOFS. 10_state: the writers of TXBUF and of RXBUF (O58). -/

namespace Sys2Proof.Machine

variable {s t : State}

/-- A host write that changes a byte of the stores is an applied write of the TXBUF word that holds it. -/
theorem hostWrite_changes (hm : Memory.wf s.mem) {a : Nat} {v : Word} {k : Nat}
    (hne : readByte (hostWrite a v s) k ≠ readByte s k) : s.busy = false ∧ inTxbuf a = true ∧ a ≤ k ∧ k < a + 4 := by
  rcases hostWrite_cases a v s with ⟨-, -, e⟩ | ⟨-, hb, e⟩ | ⟨-, e⟩ <;> rw [e] at hne
  · exact absurd rfl hne
  · cases ha : inTxbuf a with
    | false => exact absurd (readByte_congr (applyWrite_mem a v s ha) (by rw [applyWrite_eq]) k) hne
    | true =>
      rw [applyWrite_txbuf a v s ha] at hne
      have hk : ¬(k < a ∨ a + 4 ≤ k) := fun hk => hne (readByte_storeWord_elsewhere hm v hk)
      exact ⟨hb, rfl, by omega, by omega⟩
  · exact absurd rfl hne

/-- Of the host accesses only such a write changes a byte of the stores (R78, R79). -/
theorem hostAccess_changes (hm : Memory.wf s.mem) {a : Offset} {rq : Request} {k : Nat}
    (hne : readByte (settle (hostAccess a rq s)) k ≠ readByte s k) :
    s.busy = false ∧ inTxbuf a.toNat = true ∧ a.toNat ≤ k ∧ k < a.toNat + 4 ∧ a.toNat % 4 = 0 ∧
      ∃ v, rq = ⟨4, .write v⟩ := by
  rcases hostAccess_cases a rq s with e | ⟨-, e⟩ | ⟨v, hrq, h4, e⟩ | ⟨i, e⟩ | e <;> rw [e] at hne
  · exact absurd rfl hne
  · obtain ⟨-, -, hmem, hboots⟩ := hostRead_outside a.toNat s
    exact absurd (readByte_congr hmem hboots k) hne
  · obtain ⟨hb, ha, hlo, hhi⟩ := hostWrite_changes (s := respond false 0 s) hm hne
    exact ⟨hb, ha, hlo, hhi, h4, v, hrq⟩
  · obtain ⟨-, -, hmem, hboots⟩ := execState_outside i (respond false 0 s)
    exact absurd (readByte_congr (s := s) hmem hboots k) hne
  · exact absurd rfl hne

/-- An engine turn that changes a byte of the stores is one in phase RX, and the byte the next of the response (R164). -/
theorem engineTurn_changes (h : s.Inv) {ready up : Bool} {k : Nat}
    (hne : readByte (settle (engineTurn ready up s)) k ≠ readByte s k) :
    s.phase = .rx ∧ k = rxbufBase + s.rxCnt := by
  rcases engineTurn_cases (s := s) (ready := ready) (up := up) rfl with
    ⟨-, -, hmem, hboots⟩ | ⟨b, -, -, -, hmem, hboots⟩ | ⟨b, q, hp, -, e⟩ | ⟨-, -, b, -, -, -, hmem, hboots⟩
  · exact absurd (readByte_congr hmem hboots k) hne
  · exact absurd (readByte_congr hmem hboots k) hne
  · have hlt : s.rxCnt < bufSize :=
      Nat.lt_of_lt_of_le ((phaseInv_rx hp).mp h.phase).2 h.count.rneed_range.2
    refine ⟨hp, ?_⟩
    by_contra hk
    rw [e] at hne
    exact hne ((readByte_rxStep (s := { s with rx := q }) h.stores.mem_wf hlt b k).trans (if_neg hk))
  · exact absurd (readByte_congr hmem hboots k) hne

/-- Whatever step changes a byte of the stores is one of the two writers' (R39), if it is no power-on reset. -/
theorem step_changes (h : s.Inv) (hs : step s = .next t) (hboots : t.boots = s.boots) {k : Nat}
    (hne : readByte t k ≠ readByte s k) :
    (s.busy = false ∧ ∃ (a : Offset) (v : Word) (rest : List Event),
      (s.script = .host a ⟨4, .write v⟩ :: rest ∨ s.script = .bus (s.params.base + a.toNat) ⟨4, .write v⟩ :: rest) ∧
      inTxbuf a.toNat = true ∧ a.toNat % 4 = 0 ∧ a.toNat ≤ k ∧ k < a.toNat + 4) ∨
    (s.phase = .rx ∧ k = rxbufBase + s.rxCnt ∧ ∃ ready up rest, s.script = .engine ready up :: rest) := by
  match hscript : s.script with
  | [] =>
    rcases step_cases hs with ⟨-, rfl⟩ | ⟨e, rest, he, -⟩
    · exact absurd rfl hne
    · rw [hscript] at he; contradiction
  | e :: rest =>
    have hInv : State.Inv { s with script := rest } := inv_of_free h ..
    have hm := hInv.stores.mem_wf
    obtain rfl : settle (fetchEvent e { s with script := rest }) = t :=
      Host.Outcome.next.inj ((step_of_script hscript).symm.trans hs)
    cases e with
    | host a rq =>
      obtain ⟨hb, ha, hlo, hhi, h4, v, rfl⟩ := hostAccess_changes hm hne
      exact .inl ⟨hb, a, v, rest, .inl rfl, ha, h4, hlo, hhi⟩
    | bus addr rq =>
      rcases busAccess_cases addr rq { s with script := rest } with e | ⟨a, rfl, e⟩
      · exact absurd (congrArg (readByte · k) e) hne
      · have hne' : readByte (settle (hostAccess a rq { s with script := rest })) k ≠ readByte s k := e ▸ hne
        obtain ⟨hb, ha, hlo, hhi, h4, v, rfl⟩ := hostAccess_changes hm hne'
        exact .inl ⟨hb, a, v, rest, .inr rfl, ha, h4, hlo, hhi⟩
    | engine ready up =>
      obtain ⟨hp, hk⟩ := engineTurn_changes hInv hne
      exact .inr ⟨hp, hk, ready, up, rest, rfl⟩
    | deliver b => exact absurd rfl hne
    | powerOn => exact absurd hboots (Nat.succ_ne_self _)

/-- Settles O58: an aligned TXBUF word holds no byte of RXBUF, and RXBUF[RX_CNT] is no byte of TXBUF. -/
theorem buffersHaveOneWriterEach : Obligations.BuffersHaveOneWriterEach := by
  intro s t h hs hboots
  refine ⟨fun i hi hne => ?_, fun i hi hne => ?_⟩
  · rcases step_changes h hs hboots hne with ⟨hb, a, v, rest, hw, -, h4, hlo, hhi⟩ | ⟨-, hk, -⟩
    · exact ⟨hb, a, v, rest, hw, h4, hlo, hhi⟩
    · simp only [txbufBase, rxbufBase] at hk; omega
  · rcases step_changes h hs hboots hne with ⟨-, a, v, rest, -, ha, h4, -, hhi⟩ | ⟨hp, hk, hturn⟩
    · have ha := (inTxbuf_iff _).mp ha
      simp only [rxbufBase] at hhi; omega
    · exact ⟨hp, Nat.add_left_cancel hk, hturn⟩

end Sys2Proof.Machine
end

section
/-! PROOFS. 20_memory: the accesses that are refused, dropped or ignored (O18, O23, O24), and the bus address of an
access (O25). -/

namespace Sys2Proof.Machine

variable {s : State}

/-! ## Illegal accesses -/

theorem legalAccess_eq_false {a : Offset} {rq : Request} (h : rq.size ≠ 4 ∨ a.toNat % 4 ≠ 0) :
    legalAccess a rq = false := decide_eq_false (by omega)

/-- Settles O18: the answer is the bus error with data 0, whatever the access. -/
theorem illegalAccessIsABusErrorOnly : Obligations.IllegalAccessIsABusErrorOnly := by
  intro s a rq rest hs hillegal
  refine ⟨0, fun _ => rfl, ?_⟩
  rw [step_host hs, hostAccess_illegal (legalAccess_eq_false hillegal)]; rfl

/-! ## Writes that are not applied -/

/-- The step of a write of a register other than CTRL and STATUS. -/
theorem step_write {a : Offset} {v : Word} {rest : List Event} (h4 : a.toNat % 4 = 0) (h8 : 8 ≤ a.toNat)
    (hs : s.script = .host a ⟨4, .write v⟩ :: rest) :
    step s = .next (hostWrite a.toNat v (respond false 0 { s with script := rest })) := by
  rw [step_host hs, hostAccess_write h4 h8, settle_done]

theorem hostWrite_of_busy {a : Nat} (hw : writable a = true) (hb : s.busy = true) (v : Word) :
    hostWrite a v s = ignoreWrite s := by simp only [hostWrite, hw, hb, if_true]

theorem hostWrite_of_not_writable {a : Nat} (hw : writable a = false) (v : Word) : hostWrite a v s = s := by
  simp only [hostWrite, hw, Bool.false_eq_true, if_false]

/-- Settles O23: every offset named is writable. -/
theorem writeWhileBusyIsDropped : Obligations.WriteWhileBusyIsDropped := by
  intro s v a rest hb hs ha
  have hoff : a.toNat % 4 = 0 ∧
      ((a.toNat = 0x008 ∨ a.toNat = 0x00C ∨ a.toNat = 0x010 ∨ a.toNat = 0x014) ∨
        (0x200 ≤ a.toNat ∧ a.toNat < 0x400)) := by
    rcases ha with rfl | rfl | rfl | rfl | ⟨hlo, hhi, h4⟩
    case inr.inr.inr.inr => exact ⟨h4, .inr ⟨hlo, hhi⟩⟩
    all_goals decide
  obtain ⟨h4, hoff⟩ := hoff
  refine ⟨0, ?_⟩
  rw [step_write h4 (by omega) hs,
    hostWrite_of_busy (s := respond false 0 { s with script := rest }) ((writable_iff _).mpr hoff) hb]
  rfl

/-- Settles O24: no offset named is writable. -/
theorem writeOfReadOnlyOffsetIsIgnored : Obligations.WriteOfReadOnlyOffsetIsIgnored := by
  intro s v a rest hs h4 ha
  have hw : writable a.toNat = false := by
    rw [← Bool.not_eq_true, writable_iff]; omega
  refine ⟨0, ?_⟩
  rw [step_write h4 (by omega) hs, hostWrite_of_not_writable hw]; rfl

/-! ## Bus addresses -/

theorem busOffset_base_add (p : Params) (a : Offset) : busOffset p (p.base + a.toNat) = some a := by
  have := a.isLt
  rw [busOffset, if_pos (by omega), Nat.add_sub_cancel_left, BitVec.ofNat_toNat, BitVec.setWidth_eq]

theorem busOffset_outside {p : Params} {addr : Nat} (h : addr < p.base ∨ p.base + 4096 ≤ addr) :
    busOffset p addr = none := by
  rw [busOffset, if_neg (by omega)]

/-- Settles O25: BASE + offset has that offset in the window, and an address outside has none. -/
theorem busAddressIsBasePlusOffset : Obligations.BusAddressIsBasePlusOffset := by
  intro s addr rq rest hs
  refine ⟨fun a haddr => ?_, fun hout => ?_⟩
  · have haccess : busAccess addr rq { s with script := rest } = hostAccess a rq { s with script := rest } := by
      rw [busAccess, haddr, busOffset_base_add]
    calc step s = .next (settle (busAccess addr rq { s with script := rest })) := step_of_script hs
      _ = .next (settle (hostAccess a rq { s with script := rest })) := by rw [haccess]
      _ = step { s with script := .host a rq :: rest } :=
        (step_host (s := { s with script := .host a rq :: rest }) rfl).symm
  · calc step s = .next (settle (busAccess addr rq { s with script := rest })) := step_of_script hs
      _ = .next { s with script := rest } := by rw [busAccess, busOffset_outside hout]; rfl

end Sys2Proof.Machine
end

section
/-! PROOFS. 20_memory: the arguments of a running operation are frozen (O54). -/

namespace Sys2Proof.Machine

variable {s t : State}

/-- eng.op, the operand registers, and the count of power-on resets, which with the writes decides what TXBUF reads as
(R24-R27, R40, R85, log 4). -/
def State.arguments (s : State) : Op × Bool × Byte × Byte × BitVec 10 × BitVec 10 × Nat :=
  (s.op, s.toEn, s.stopCode, s.cmd, s.txLen, s.respLen, s.boots)

/-- An operation that still runs in `t` has the arguments it had in `s` (R85). -/
def ArgsFrozen (s t : State) : Prop := t.busy = true → t.arguments = s.arguments

theorem argsFrozen_finish (r : Result) (u : State) : ArgsFrozen s (finish r u) := fun hb => Bool.noConfusion hb

theorem endTryOrPoll_argsFrozen (r : Result) {u : State} (hu : u.arguments = s.arguments) :
    ArgsFrozen s (endTryOrPoll r u) := by
  rcases endTryOrPoll_cases r u with ⟨-, e⟩ | ⟨-, e⟩ <;> rw [e]
  · exact argsFrozen_finish r u
  · exact fun _ => hu

@[simp] theorem acceptLogical_arguments (b : Byte) (s : State) : (acceptLogical b s).arguments = s.arguments := by
  unfold acceptLogical
  split
  · rcases acceptHdr_cases b s with ⟨-, -, e⟩ | ⟨-, e⟩ | ⟨-, -, e⟩ <;> rw [e] <;> rfl
  · rw [acceptPay_eq]; rfl
  all_goals rfl

@[simp] theorem txStep_arguments (s : State) : (txStep s).arguments = s.arguments := by
  unfold txStep; split <;> rfl

@[simp] theorem hostRead_arguments (a : Nat) (s : State) : (hostRead a s).arguments = s.arguments := by
  unfold hostRead
  rcases readEffect_cases a s with ⟨-, e⟩ | ⟨-, e⟩ | ⟨-, -, e⟩ <;> rw [e] <;> rfl

/-- A host write to a running engine is dropped or ignored (R78, R79). -/
theorem hostWrite_arguments_of_busy (hb : s.busy = true) (a : Nat) (v : Word) :
    (hostWrite a v s).arguments = s.arguments := by
  rcases hostWrite_cases a v s with ⟨-, -, e⟩ | ⟨-, hidle, -⟩ | ⟨-, e⟩
  · rw [e]; rfl
  · exact absurd (hb.symm.trans hidle) Bool.noConfusion
  · rw [e]

/-- While an operation runs a start is dropped; of the other instructions only those that end the operation change an
argument. -/
theorem execState_argsFrozen (i : Instr) (hb : s.busy = true) : ArgsFrozen s (execState i s) := by
  have start (op : Op) (begin : State → State) : ArgsFrozen s (startOp op begin s) := by
    rw [startOp_of_busy op begin hb]; exact fun _ => rfl
  have reserved : ArgsFrozen s (startReserved s) := by
    rw [startReserved_of_busy hb]; exact fun _ => rfl
  cases i with
  | nop => exact fun _ => rfl
  | cksum => exact start _ _
  | verify => exact start _ _
  | sendCmd => exact start _ _
  | tryDecode => exact start _ _
  | drain => exact start _ _
  | badOpLow _ => exact reserved
  | badOpHigh _ => exact reserved
  | abort =>
    show ArgsFrozen s (if s.busy then finish .aborted { s with esc := false } else s)
    rw [if_pos hb]; exact argsFrozen_finish _ _
  | srst => exact fun hbusy => Bool.noConfusion hbusy
  | clrwi => exact fun _ => rfl
  | marker =>
    show ArgsFrozen s (if s.phase = .poll then startFrame s else s)
    split <;> exact fun _ => rfl
  | unexpected b =>
    show ArgsFrozen s (if s.phase = .poll then _ else s)
    split
    · exact endTryOrPoll_argsFrozen _ rfl
    · exact fun _ => rfl
  | esc =>
    show ArgsFrozen s (if inFrame s && !s.esc then { s with esc := true } else s)
    split <;> exact fun _ => rfl
  | lit b =>
    show ArgsFrozen s (if inFrame s && !s.esc then acceptLogical b s else s)
    split
    · exact fun _ => acceptLogical_arguments b s
    · exact fun _ => rfl
  | escd r =>
    show ArgsFrozen s (if inFrame s && s.esc then acceptLogical (unescape r) { s with esc := false } else s)
    split
    · exact fun _ => acceptLogical_arguments (unescape r) { s with esc := false }
    · exact fun _ => rfl
  | stopb r =>
    show ArgsFrozen s (if s.phase = .stoprd then
      (if s.scnt = 0 then { s with aux1 := r, scnt := 1 } else { s with aux2 := r, kind := .stop, phase := .emit })
      else s)
    (repeat' split) <;> exact fun _ => rfl
  | stop b =>
    show ArgsFrozen s (if s.phase = .hdr ∧ s.hcnt = 2 ∧ b = s.stopCode then
      enterStop (storeHdr b { s with esc := false }) else s)
    split <;> exact fun _ => rfl

theorem ckStep_argsFrozen (s : State) : ArgsFrozen s (ckStep s) := by
  unfold ckStep
  split
  · exact argsFrozen_finish _ _
  · exact argsFrozen_finish _ _
  all_goals exact fun _ => rfl

theorem checkStep_argsFrozen (s : State) : ArgsFrozen s (checkStep s) := by
  rcases checkStep_cases s with ⟨-, e⟩ | ⟨-, e⟩ <;> rw [e]
  · exact fun _ => rfl
  · exact endTryOrPoll_argsFrozen _ rfl

theorem emitStep_argsFrozen (s : State) : ArgsFrozen s (emitStep s) := by
  rcases emitStep_cases s with ⟨-, e⟩ | ⟨-, -, e⟩ | ⟨-, -, e⟩ <;> rw [e]
  · exact fun _ => rfl
  · exact endTryOrPoll_argsFrozen _ rfl
  · exact argsFrozen_finish _ _

/-- Whatever one event does to a busy engine, an operation that runs on keeps its arguments. -/
theorem Move.argsFrozen (hm : Move s t) (hb : s.busy = true) : ArgsFrozen s t := by
  cases hm with
  | still => exact fun _ => rfl
  | busError => exact fun _ => rfl
  | read a => exact fun _ => hostRead_arguments a s
  | write a v => exact fun _ => hostWrite_arguments_of_busy (s := respond false 0 s) hb a v
  | hostInstr _ _ i => exact execState_argsFrozen (s := respond false 0 s) i hb
  | acknowledge => exact fun _ => rfl
  | ck => exact ckStep_argsFrozen s
  | transmit => exact fun _ => txStep_arguments s
  | receive r rest => rw [rxStep_eq]; exact fun _ => rfl
  | rchk => exact argsFrozen_finish _ _
  | timeout => exact argsFrozen_finish _ _
  | pollEmpty => exact argsFrozen_finish _ _
  | token _ rest i => exact execState_argsFrozen (s := { s with rx := rest }) i hb
  | check => exact checkStep_argsFrozen s
  | emit => exact emitStep_argsFrozen s
  | deliver => exact fun _ => rfl
  | powerOn => exact fun hbusy => Bool.noConfusion hbusy

theorem step_argsFrozen (hs : step s = .next t) (hb : s.busy = true) : ArgsFrozen s t := by
  rcases step_cases hs with ⟨-, rfl⟩ | ⟨e, rest, -, hm⟩
  · exact fun _ => rfl
  · exact hm.argsFrozen hb

/-- A step that is no power-on reset changes no byte of TXBUF while an operation runs (R39, R78). -/
theorem txbuf_of_step_of_busy (h : s.Inv) (hs : step s = .next t) (hboots : t.boots = s.boots) (hb : s.busy = true)
    {i : Nat} (hi : i < bufSize) : txbuf t i = txbuf s i := by
  by_contra hne
  rcases step_changes h hs hboots hne with ⟨hidle, -⟩ | ⟨-, hk, -⟩
  · exact absurd (hb.symm.trans hidle) Bool.noConfusion
  · simp only [bufSize, txbufBase, rxbufBase] at hi hk; omega

/-- Settles O54: the registers by the moves of a step, TXBUF by its one writer. -/
theorem runningOperationsArgumentsAreFrozen : Obligations.RunningOperationsArgumentsAreFrozen := by
  intro s t h hb hs hbusy
  have hargs := step_argsFrozen hs hb hbusy
  simp only [State.arguments, Prod.mk.injEq] at hargs
  obtain ⟨hop, htoEn, hstopCode, hcmd, htxLen, hrespLen, hboots⟩ := hargs
  exact ⟨hop, htoEn, hstopCode, hcmd, htxLen, hrespLen, fun i hi => txbuf_of_step_of_busy h hs hboots hb hi⟩

end Sys2Proof.Machine
end

section
/-! PROOFS. 20_memory: a step moves at most one byte of the transport (O57). -/

namespace Sys2Proof.Machine

variable {s t : State}

/-- The transport's two streams (R70, R87). -/
def State.streams (s : State) : List Byte × List Byte := (s.rx, s.tx)

theorem execState_streams (i : Instr) (s : State) : (execState i s).streams = s.streams := by
  obtain ⟨hrx, htx, -, -⟩ := execState_outside i s
  exact Prod.ext hrx htx

theorem hostRead_streams (a : Nat) (s : State) : (hostRead a s).streams = s.streams := by
  obtain ⟨hrx, htx, -, -⟩ := hostRead_outside a s
  exact Prod.ext hrx htx

theorem hostWrite_streams (a : Nat) (v : Word) (s : State) : (hostWrite a v s).streams = s.streams := by
  rcases hostWrite_cases a v s with ⟨-, -, e⟩ | ⟨-, -, e⟩ | ⟨-, e⟩ <;> rw [e]
  · rfl
  · rw [applyWrite_eq]; rfl

/-- No host access moves a transport byte: a CTRL write only starts an operation. -/
theorem hostAccess_streams (a : Offset) (rq : Request) (s : State) :
    (settle (hostAccess a rq s)).streams = s.streams := by
  rcases hostAccess_cases a rq s with e | ⟨-, e⟩ | ⟨v, -, -, e⟩ | ⟨i, e⟩ | e <;> rw [e]
  · rfl
  · exact hostRead_streams a.toNat s
  · exact hostWrite_streams a.toNat v _
  · exact execState_streams i _
  · rfl

theorem busAccess_streams (addr : Nat) (rq : Request) (s : State) :
    (settle (busAccess addr rq s)).streams = s.streams := by
  rcases busAccess_cases addr rq s with e | ⟨a, -, e⟩ <;> rw [e]
  exact hostAccess_streams a rq s

/-- All an engine turn can do to the two streams (R80, R163). -/
theorem engineTurn_streams (ready up : Bool) (s : State) :
    (settle (engineTurn ready up s)).streams = s.streams ∨
    (∃ b q, (s.phase = .rx ∨ s.phase = .poll ∨ s.phase = .hdr ∨ s.phase = .stoprd ∨ s.phase = .pay) ∧
      s.rx = b :: q ∧ (settle (engineTurn ready up s)).streams = (q, s.tx)) ∨
    (ready = true ∧ s.phase = .tx ∧ ∃ b, s.txpkt[s.tidx]? = some b ∧
      (settle (engineTurn ready up s)).streams = (s.rx, s.tx ++ [b])) := by
  rcases engineTurn_cases (s := s) (ready := ready) (up := up) rfl with
    ⟨hrx, htx, -, -⟩ | ⟨b, hp, hrx, htx, -, -⟩ | ⟨b, q, hp, hrx, e⟩ | ⟨hready, hp, b, hb, htx, hrx, -, -⟩
  · exact .inl (Prod.ext hrx htx)
  · exact .inr (.inl ⟨b, _, by tauto, hrx, Prod.ext rfl htx⟩)
  · refine .inr (.inl ⟨b, q, .inl hp, hrx, ?_⟩)
    rw [e, rxStep_eq]; rfl
  · exact .inr (.inr ⟨hready, hp, b, hb, Prod.ext hrx htx⟩)

/-- An engine turn in IDLE uses itself up and changes nothing else (R87, R301). -/
theorem step_engine_idle {ready up : Bool} {rest : List Event} (hs : s.script = .engine ready up :: rest)
    (hp : s.phase = .idle) : step s = .next { s with script := rest } := by
  rw [step_engine hs, engineTurn_idle (s := { s with script := rest }) hp, settle_done]

/-- A step is no change, with no event to come, or what the next event makes. -/
theorem step_event_cases (hs : step s = .next t) :
    t = s ∨ ∃ e rest, s.script = e :: rest ∧ t = settle (fetchEvent e { s with script := rest }) := by
  match hscript : s.script with
  | [] =>
    rcases step_cases hs with ⟨-, e⟩ | ⟨e, rest, he, -⟩
    · exact .inl e
    · rw [hscript] at he; contradiction
  | e :: rest => exact .inr ⟨e, rest, rfl, Host.Outcome.next.inj (hs.symm.trans (step_of_script hscript))⟩

/-- Settles O57: event by event; only a delivery and an engine turn move a byte. -/
theorem stepMovesAtMostOneTransportByte : Obligations.StepMovesAtMostOneTransportByte := by
  refine ⟨fun s t hs => ?_, fun s ready up rest hs hp => step_engine_idle hs hp⟩
  have kept (e : t.streams = s.streams) : t.rx = s.rx ∧ t.tx = s.tx := Prod.mk.inj e
  rcases step_event_cases hs with rfl | ⟨e, rest, hscript, rfl⟩
  · exact .inl ⟨rfl, rfl⟩
  cases e with
  | host a rq => exact .inl (kept (hostAccess_streams a rq _))
  | bus addr rq => exact .inl (kept (busAccess_streams addr rq _))
  | engine ready up =>
    rcases engineTurn_streams ready up { s with script := rest } with e | ⟨b, q, hp, hrx, e⟩ | ⟨rfl, hp, b, hb, e⟩
    · exact .inl (kept e)
    · obtain ⟨hq, htx⟩ := Prod.mk.inj e
      exact .inr (.inr (.inl ⟨ready, up, rest, b, hscript, hp, hrx.trans (congrArg (b :: ·) hq.symm), htx⟩))
    · obtain ⟨hrx, htx⟩ := Prod.mk.inj e
      exact .inr (.inr (.inr ⟨up, rest, b, hscript, hp, hb, htx, hrx⟩))
  | deliver b => exact .inr (.inl ⟨b, rest, hscript, rfl, rfl⟩)
  | powerOn => exact .inl ⟨rfl, rfl⟩

end Sys2Proof.Machine
end

section
/-! PROOFS. 30_encoding: the decoder read against the opcode table: what encodes decodes (O1), what decodes has its
row's fixed bits (O2), a CTRL word has one row (O3), and the words the spec writes out (O4). -/

namespace Sys2Proof.Machine

/-! ## The bytes of the byte formats -/

/-- A byte format reads a byte only from the word that holds it and nothing above bit 7. -/
theorem decodeByte_eq_ok {w : Word} {b : Byte} : decodeByte w = .ok b ↔ w = b.setWidth 32 := by
  refine ⟨fun h => ?_, fun h => h ▸ decodeByte_setWidth b⟩
  unfold decodeByte at h
  split at h
  next hlt =>
    cases h
    apply BitVec.eq_of_toNat_eq
    rw [BitVec.toNat_setWidth, BitVec.toNat_setWidth]; omega
  next => cases h

theorem decode_rxPoll (b : Byte) :
    decode .rxPoll (b.setWidth 32) = .ok (if b = markerByte then .marker else .unexpected b) := by
  simp only [decode, decodeByte_setWidth]

theorem decode_rxFrame (b : Byte) :
    decode .rxFrame (b.setWidth 32) = .ok (if b = escByte then .esc else .lit b) := by
  simp only [decode, decodeByte_setWidth]

theorem decode_rxEscaped (r : Byte) : decode .rxEscaped (r.setWidth 32) = .ok (.escd r) := by
  simp only [decode, decodeByte_setWidth]

theorem decode_rxStoprd (r : Byte) : decode .rxStoprd (r.setWidth 32) = .ok (.stopb r) := by
  simp only [decode, decodeByte_setWidth]

theorem decode_hdrByte2 (stopCode b : Byte) :
    decode (.hdrByte2 stopCode) (b.setWidth 32) =
      if b = stopCode then .ok (.stop b) else .error .notTheStopCode := by
  simp only [decode, decodeByte_setWidth]

/-! ## CTRL words -/

/-- A CTRL word with every ignored bit 0: SRST in bit 9, ABORT in bit 8, OP in bits 3:0 (R102). -/
def ctrlWord (srst abort : Bool) (op : BitVec 4) : Word :=
  0#22 ++ BitVec.ofBool srst ++ BitVec.ofBool abort ++ 0#4 ++ op

/-- The three fields of a CTRL word are its bits under the mask 0x30F. -/
theorem ctrlWord_fields (w : Word) :
    ctrlWord (w.getLsbD 9) (w.getLsbD 8) (w.extractLsb' 0 4) = w &&& 0x30F#32 := by
  apply BitVec.eq_of_getLsbD_eq
  intro i hi
  simp only [ctrlWord, BitVec.getLsbD_append, BitVec.getLsbD_and]
  interval_cases i <;> simp

/-- No bit outside SRST, ABORT and OP plays a part in decoding a CTRL word (R103). -/
theorem decodeCtrl_mask (w : Word) : decodeCtrl (w &&& 0x30F#32) = decodeCtrl w := by
  have hop : (w &&& 0x30F#32).extractLsb' 0 4 = w.extractLsb' 0 4 := by
    apply BitVec.eq_of_getLsbD_eq
    intro i hi
    simp only [BitVec.getLsbD_extractLsb', BitVec.getLsbD_and]
    interval_cases i <;> simp
  simp [decodeCtrl, hop]

/-- Nor does one in whether a CTRL row of the table matches. -/
theorem rowMatches_mask {row : Word × Word} (hrow : row ∈ ctrlRows) (w : Word) :
    rowMatches row (w &&& 0x30F#32) = rowMatches row w := by
  have hmask : ctrlRows.all (fun row => 0x30F#32 &&& row.2 == row.2) = true := by decide
  rw [rowMatches, rowMatches, BitVec.and_assoc, eq_of_beq (List.all_eq_true.mp hmask row hrow)]

theorem decodeCtrl_srst {w : Word} (h9 : w.getLsbD 9 = true) : decodeCtrl w = .srst := by
  simp only [decodeCtrl, h9, if_true]

theorem decodeCtrl_abort {w : Word} (h9 : w.getLsbD 9 = false) (h8 : w.getLsbD 8 = true) :
    decodeCtrl w = .abort := by
  simp only [decodeCtrl, h9, h8, Bool.false_eq_true, if_false, if_true]

theorem decodeCtrl_op {w : Word} (h9 : w.getLsbD 9 = false) (h8 : w.getLsbD 8 = false) :
    decodeCtrl w = decodeOp (w.extractLsb' 0 4) := by
  simp only [decodeCtrl, h9, h8, Bool.false_eq_true, if_false]

/-- One CTRL row of the table matches a word of the three fields alone, the row of what it decodes to. -/
theorem ctrlRows_filter_ctrlWord : ∀ (srst abort : Bool) (op : BitVec 4),
    ctrlRows.filter (fun row => rowMatches row (ctrlWord srst abort op)) =
      [tableRow (decodeCtrl (ctrlWord srst abort op))] := by decide

/-- One CTRL row of the table matches a word, the row of what it decodes to (R103). -/
theorem ctrlRows_filter (w : Word) :
    ctrlRows.filter (fun row => rowMatches row w) = [tableRow (decodeCtrl w)] := by
  calc ctrlRows.filter (fun row => rowMatches row w)
      = ctrlRows.filter (fun row => rowMatches row (w &&& 0x30F#32)) :=
        List.filter_congr fun row hrow => (rowMatches_mask hrow w).symm
    _ = [tableRow (decodeCtrl (w &&& 0x30F#32))] := by rw [← ctrlWord_fields]; exact ctrlRows_filter_ctrlWord ..
    _ = [tableRow (decodeCtrl w)] := by rw [decodeCtrl_mask]

theorem decodeOp_wf : ∀ op : BitVec 4, (decodeOp op).wf = true := by decide

theorem decodeCtrl_wf (w : Word) : (decodeCtrl w).wf = true := by
  unfold decodeCtrl
  (repeat' split)
  · rfl
  · rfl
  · exact decodeOp_wf _

/-- A reserved code is read back in the CTRL row its range selects (R102). -/
theorem decodeCtrl_setWidth (op : BitVec 4) : decodeCtrl (op.setWidth 32) = decodeOp op := by
  revert op; decide

theorem decodeOp_reservedLow : ∀ op : BitVec 4, (Instr.badOpLow op).wf = true → decodeOp op = .badOpLow op := by
  decide

theorem decodeOp_reservedHigh : ∀ op : BitVec 4, (Instr.badOpHigh op).wf = true → decodeOp op = .badOpHigh op := by
  decide

/-- Settles O1: in the format of its row each instruction is read from its own word, operation by operation in CTRL
and from the byte the word holds in the byte formats. -/
theorem decodeOfEncodeIsTheInstruction : Obligations.DecodeOfEncodeIsTheInstruction := by
  intro i hwf
  cases i with
  | nop => decide
  | cksum => decide
  | verify => decide
  | sendCmd => decide
  | tryDecode => decide
  | drain => decide
  | badOpLow op => exact congrArg Except.ok ((decodeCtrl_setWidth op).trans (decodeOp_reservedLow op hwf))
  | badOpHigh op => exact congrArg Except.ok ((decodeCtrl_setWidth op).trans (decodeOp_reservedHigh op hwf))
  | abort => decide
  | srst => decide
  | clrwi => decide
  | marker => decide
  | esc => decide
  | unexpected b =>
    have hb : b ≠ markerByte := bne_iff_ne.mp hwf
    exact (decode_rxPoll b).trans (by rw [if_neg hb])
  | lit b =>
    have hb : b ≠ escByte := bne_iff_ne.mp hwf
    exact (decode_rxFrame b).trans (by rw [if_neg hb])
  | escd r => exact decode_rxEscaped r
  | stopb r => exact decode_rxStoprd r
  | stop b => exact (decode_hdrByte2 b b).trans (if_pos rfl)

/-- Settles O3: priority is the order of the decoder's tests, and only the bits under 0x30F reach it. -/
theorem ctrlWordSelectsExactlyOneRow : Obligations.CtrlWordSelectsExactlyOneRow := by
  intro w
  refine ⟨decodeCtrl_srst, decodeCtrl_abort, fun h9 h8 => ?_, fun v hv => ?_, ctrlRows_filter w⟩
  · have hop : w &&& 0xF#32 = (w.extractLsb' 0 4).setWidth 32 := (setWidth_extractLsb'_zero w 4).symm
    rw [decodeCtrl_op h9 h8, hop]
    generalize w.extractLsb' 0 4 = op
    revert op; decide
  · rw [← decodeCtrl_mask v, hv, decodeCtrl_mask]

/-- What decodes in a byte format is well formed, and the word is that instruction's own. -/
theorem decode_byteFormat {f : Format} {w : Word} {i : Instr} (hctrl : f ≠ .ctrl) (hstatus : f ≠ .statusWrite)
    (h : decode f w = .ok i) : i.wf = true ∧ w = encode i := by
  obtain ⟨b, rfl⟩ : ∃ b : Byte, w = b.setWidth 32 := by
    cases hb : decodeByte w with
    | ok b => exact ⟨b, decodeByte_eq_ok.mp hb⟩
    | error e => cases f <;> simp [decode, hb] at h hctrl hstatus
  cases f with
  | ctrl => contradiction
  | statusWrite => contradiction
  | rxPoll =>
    rw [decode_rxPoll] at h
    split at h <;> cases h
    next hm => exact ⟨rfl, by rw [hm]; rfl⟩
    next hm => exact ⟨bne_iff_ne.mpr hm, rfl⟩
  | rxFrame =>
    rw [decode_rxFrame] at h
    split at h <;> cases h
    next he => exact ⟨rfl, by rw [he]; rfl⟩
    next he => exact ⟨bne_iff_ne.mpr he, rfl⟩
  | rxEscaped => rw [decode_rxEscaped] at h; cases h; exact ⟨rfl, rfl⟩
  | rxStoprd => rw [decode_rxStoprd] at h; cases h; exact ⟨rfl, rfl⟩
  | hdrByte2 stopCode =>
    rw [decode_hdrByte2] at h
    split at h <;> cases h
    exact ⟨rfl, rfl⟩

/-- The row of what a CTRL word decodes to matches the word: it is the one that does. -/
theorem rowMatches_decodeCtrl (w : Word) : rowMatches (tableRow (decodeCtrl w)) w = true := by
  have hmem : tableRow (decodeCtrl w) ∈ ctrlRows.filter (fun row => rowMatches row w) := by
    rw [ctrlRows_filter]; exact List.mem_singleton_self _
  exact (List.mem_filter.mp hmem).2

theorem decode_statusWrite_eq_ok {w : Word} {i : Instr} (h : decode .statusWrite w = .ok i) :
    w.getLsbD 8 = true ∧ i = .clrwi := by
  simp only [decode] at h
  split at h <;> cases h
  next h8 => exact ⟨h8, rfl⟩

/-- CLRWI has one fixed bit, bit 8 (R256). -/
theorem rowMatches_clrwi {w : Word} (h8 : w.getLsbD 8 = true) : rowMatches (tableRow .clrwi) w = true := by
  have hbit : w &&& BitVec.twoPow 32 8 = BitVec.twoPow 32 8 := by rw [BitVec.and_twoPow, if_pos h8]
  exact beq_iff_eq.mpr hbit

/-- Each well-formed instruction's word has the fixed bits of its row of the table (R103, R116-R119). -/
theorem rowMatches_encode {i : Instr} (hwf : i.wf = true) : rowMatches (tableRow i) (encode i) = true := by
  cases i with
  | nop => exact Laws.TableRows.nop hwf
  | cksum => exact Laws.TableRows.cksum hwf
  | verify => exact Laws.TableRows.verify hwf
  | sendCmd => exact Laws.TableRows.sendCmd hwf
  | tryDecode => exact Laws.TableRows.tryDecode hwf
  | drain => exact Laws.TableRows.drain hwf
  | badOpLow op => exact Laws.TableRows.badOpLow op hwf
  | badOpHigh op => exact Laws.TableRows.badOpHigh op hwf
  | abort => exact Laws.TableRows.abort hwf
  | srst => exact Laws.TableRows.srst hwf
  | clrwi => exact Laws.TableRows.clrwi hwf
  | marker => exact Laws.TableRows.marker hwf
  | unexpected b => exact Laws.TableRows.unexpected b hwf
  | esc => exact Laws.TableRows.esc hwf
  | lit b => exact Laws.TableRows.lit b hwf
  | escd r => exact Laws.TableRows.escd r hwf
  | stopb r => exact Laws.TableRows.stopb r hwf
  | stop b => exact Laws.TableRows.stop b hwf

/-- Settles O2: a CTRL word has one row, a STATUS word bit 8, and a byte is the word of the instruction it gives. -/
theorem decodedWordHasItsRowsFixedBits : Obligations.DecodedWordHasItsRowsFixedBits := by
  intro f w i h
  by_cases hctrl : f = .ctrl
  · subst hctrl; cases h
    exact ⟨decodeCtrl_wf w, rowMatches_decodeCtrl w⟩
  by_cases hstatus : f = .statusWrite
  · subst hstatus
    obtain ⟨h8, rfl⟩ := decode_statusWrite_eq_ok h
    exact ⟨rfl, rowMatches_clrwi h8⟩
  obtain ⟨hwf, rfl⟩ := decode_byteFormat hctrl hstatus h
  exact ⟨hwf, rowMatches_encode hwf⟩

/-- Settles O4: each word is evaluated in its format. -/
theorem wordsOfTheSpecDecode : Obligations.WordsOfTheSpecDecode := by
  unfold Obligations.WordsOfTheSpecDecode
  decide

end Sys2Proof.Machine
end

section
/-! PROOFS. 30_encoding: un-escaping undoes escaping (O5), and the arithmetic of the wire's fields (O60). -/

namespace Sys2Proof.Machine

/-- Settles O5: byte by byte, each as the device sends it. -/
theorem unescapeUndoesEscape : Obligations.UnescapeUndoesEscape := by
  intro bs
  induction bs with
  | nil => exact unescapeBytes_nil
  | cons b bs ih =>
    rw [escapeBytes, List.flatMap_cons, unescapeBytes_escapeByte, ← escapeBytes, ih, Option.map_some]

/-- The model's signed value of a code is its two's-complement value (R10, R112). -/
theorem sext16_eq_toInt (c : Half) : sext16 c = c.toInt := by
  rw [sext16, BitVec.toInt_eq_toNat_cond]
  split <;> split <;> omega

theorem sext16_range (c : Half) : -32768 ≤ sext16 c ∧ sext16 c ≤ 32767 := by
  have := c.isLt
  rw [sext16]
  split <;> omega

theorem plenOf_of_lt {b : Byte} (h : b.toNat < 4) : plenOf b = 0 := Nat.sub_eq_zero_of_le (Nat.le_of_lt h)

theorem chan0_toNat (b : Byte) : (chan0 b).toNat = (b.toNat + 255) % 256 := by
  rw [chan0, BitVec.toNat_sub, Nat.add_comm]; rfl

/-- Settles O60, field by field. -/
theorem wireFieldArithmetic : Obligations.WireFieldArithmetic :=
  ⟨fun c => ⟨sext16_eq_toInt c, sext16_range c⟩, fun b => ⟨fun _ => rfl, plenOf_of_lt, plenOf_le b⟩, chan0_toNat⟩

end Sys2Proof.Machine
end

section
/-! PROOFS. 30_encoding: which token a raw byte is (O7), and a placed word is the next instruction run (O8). -/

namespace Sys2Proof.Machine

variable {s : State} {r : Byte}

/-! ## The raw byte that completes a stop -/

theorem completesStop_raw (he : s.esc = false) :
    completesStop s r = true ↔ (s.phase = .hdr ∧ s.hcnt = 2 ∧ r = s.stopCode) ∧ r ≠ escByte := by
  simp only [completesStop, logicalByte, he, Bool.false_eq_true, false_or, if_false, decide_eq_true_iff]
  tauto

theorem completesStop_escaped (he : s.esc = true) :
    completesStop s r = true ↔ s.phase = .hdr ∧ s.hcnt = 2 ∧ unescape r = s.stopCode := by
  simp only [completesStop, logicalByte, he, true_or, true_and, if_true, decide_eq_true_iff]

/-- At an engine turn of a phase that takes tokens, the byte waiting is the token fetched. -/
theorem fetch_token {ready up : Bool} {rest : List Event} {q : List Byte}
    (hs : s.script = .engine ready up :: rest) (hq : s.rx = r :: q)
    (hp : s.phase = .poll ∨ s.phase = .hdr ∨ s.phase = .pay ∨ s.phase = .stoprd) :
    fetch s = takeToken r q { s with script := rest } := by
  unfold fetch
  rw [hs]
  exact engineTurn_token (s := { s with script := rest }) hp hq

/-- Settles O7: phase by phase and, in a frame, by eng.esc and the stop test. -/
theorem rawByteIsTheTokenOfItsPhase : Obligations.RawByteIsTheTokenOfItsPhase := by
  intro s ready up rest r q hs hq
  refine ⟨fun hp hr => ?_, fun hp hr => ?_, fun hp => ?_, fun hp he hr => ?_, fun hp he hr hno => ?_,
    fun hp he hno => ?_, fun hp h2 he hr hstop => ?_, fun hp h2 he hstop => ?_⟩
  · rw [fetch_token hs hq (.inl hp), hr]; exact token_marker hp
  · rw [fetch_token hs hq (.inl hp)]; exact token_unexpected hp hr
  · rw [fetch_token hs hq (.inr (.inr (.inr hp)))]; exact token_stopb hp
  · rw [fetch_token hs hq (by tauto), hr]; exact token_esc hp he
  · have hc : completesStop s r = false := by
      rw [← Bool.not_eq_true, completesStop_raw he]; exact fun h => hno h.1
    rw [fetch_token hs hq (by tauto)]; exact token_lit hp he hr hc
  · have hc : completesStop s r = false := by
      rw [← Bool.not_eq_true, completesStop_escaped he]; exact hno
    rw [fetch_token hs hq (by tauto)]; exact token_escd hp he hc
  · have hc : completesStop s r = true := (completesStop_raw he).mpr ⟨⟨hp, h2, hstop⟩, hr⟩
    have hb : logicalByte s r = r := by simp only [logicalByte, he, Bool.false_eq_true, if_false]
    rw [fetch_token hs hq (.inr (.inl hp)), token_stop (s := { s with script := rest }) hc]
    exact congrArg (fun b => Fetched.run (.stop b) _) hb
  · have hc : completesStop s r = true := (completesStop_escaped he).mpr ⟨hp, h2, hstop⟩
    have hb : logicalByte s r = unescape r := by simp only [logicalByte, he, if_true]
    rw [fetch_token hs hq (.inr (.inl hp)), token_stop (s := { s with script := rest }) hc]
    exact congrArg (fun b => Fetched.run (.stop b) _) hb

/-! ## Placed words -/

theorem toOption_eq_some {i : Instr} {x : Except Reject Instr} (h : x.toOption = some i) : x = .ok i := by
  cases x with
  | ok j => exact congrArg Except.ok (Option.some.inj h)
  | error e => cases h

theorem fetch_placeCtrl (w : Word) (s : State) :
    fetch (placeCtrl w s) = .run (decodeCtrl w) (respond false 0 s) := hostAccess_ctrl w

/-- The decoder brought to where it reads a bare byte reads it in that byte's format (log 12). -/
theorem tokenOf_enterFormat (b : Byte) (s : State) :
    tokenOf (enterFormat (bareByteFormat b) s) b = (bareByteFormat b, b.setWidth 32) := by
  unfold bareByteFormat
  split
  next hesc =>
    have hc : completesStop (enterFormat .rxFrame s) b = false := by simp [completesStop, enterFormat]
    rw [tokenOf, hc]; rfl
  next hesc =>
    split
    next hstop =>
      have hc : completesStop (enterFormat (.hdrByte2 stopCodeReset) s) b = true := by
        subst hstop; simp [completesStop, enterFormat, logicalByte, hesc]
      rw [tokenOf, hc]; rfl
    next => rfl

theorem enterFormat_bare_phase (b : Byte) (s : State) :
    (enterFormat (bareByteFormat b) s).phase = .poll ∨ (enterFormat (bareByteFormat b) s).phase = .hdr := by
  unfold bareByteFormat
  (repeat' split) <;> simp [enterFormat]

theorem fetch_placeByte {b : Byte} {i : Instr} (h : decode (bareByteFormat b) (b.setWidth 32) = .ok i) (s : State) :
    ∃ t, fetch (placeByte b (enterFormat (bareByteFormat b) s)) = .run i t := by
  rw [fetch_token (s := placeByte b (enterFormat (bareByteFormat b) s)) rfl rfl
    ((enterFormat_bare_phase b s).imp_right .inl)]
  have htoken : tokenOf { placeByte b (enterFormat (bareByteFormat b) s) with
      script := (enterFormat (bareByteFormat b) s).script } b = (bareByteFormat b, b.setWidth 32) :=
    tokenOf_enterFormat b s
  exact ⟨_, takeToken_of_decode (by rw [htoken]; exact h)⟩

theorem fetch_placeTableWord {nbits w : Nat} {i : Instr} (h : decodeTableWord nbits w = some i) (s : State) :
    ∃ t, fetch (placeTableWord s nbits w) = .run i t := by
  unfold decodeTableWord at h
  unfold placeTableWord
  split at h
  next hwide =>
    rw [if_pos hwide]
    cases toOption_eq_some h
    exact ⟨_, fetch_placeCtrl _ s⟩
  next hbyte =>
    rw [if_neg hbyte]
    exact fetch_placeByte (toOption_eq_some h) s

/-- Settles O8: a wide word is placed as a CTRL write and a byte where the decoder reads it in its format. -/
theorem placedTableWordIsRunNext : Obligations.PlacedTableWordIsRunNext := by
  intro s nbits w i h
  obtain ⟨t, ht⟩ := fetch_placeTableWord h s
  refine ⟨t, ht, ?_⟩
  unfold step
  rw [show fetch (s.withFetchWord nbits w) = .run i t from ht]

end Sys2Proof.Machine
end

section
/-! PROOFS. 42_stream_decoder: runs in which the engine alone moves, and what the raw bytes of a frame make of the
decoder, each logical byte sent raw or escaped (R106-R110, R196-R201). -/

namespace Sys2Proof.Machine

variable {s t : State} {r : Byte} {more : List Byte} {rest : List Event} {turns : List (Bool × Bool)}

/-! ## Engine turns in a row -/

/-- A state with given bytes waiting and given steps to come. -/
def State.load (s : State) (rx : List Byte) (script : List Event) : State := { s with rx, script }

/-- A run whose next step is the engine's turn. -/
theorem run_engineTurn (c : Bool × Bool) (n : Nat) :
    Host.Core.run Sys2Proof.core (n + 1) (s.load more (engineTurns (c :: turns) ++ rest)) =
      Host.Core.run Sys2Proof.core n (settle (engineTurn c.1 c.2 (s.load more (engineTurns turns ++ rest)))) :=
  run_succ (step_engine rfl) n

/-! ## Logical bytes -/

/-- What a logical header byte does depends on no byte waiting and no step to come. -/
theorem acceptHdr_load (b : Byte) (s : State) (q : List Byte) (later : List Event) :
    acceptHdr b (s.load q later) = (acceptHdr b s).load q later := by
  simp only [acceptHdr, apply_ite (State.load · q later)]
  rfl

theorem storePaybuf_pay (i : Nat) (b : Byte) (s : State) :
    (storePaybuf i b s).pay = if i < payMax then memPut s.pay i b else s.pay := by
  unfold storePaybuf; split <;> rfl

/-- Nor does what a logical payload byte does. -/
theorem acceptPay_load (b : Byte) (s : State) (q : List Byte) (later : List Event) :
    acceptPay b (s.load q later) = (acceptPay b s).load q later := by
  rw [acceptPay_eq, acceptPay_eq, storePaybuf_pay, storePaybuf_pay]; rfl

theorem acceptLogical_load (hp : s.phase = .hdr ∨ s.phase = .pay) (b : Byte) (q : List Byte) (later : List Event) :
    acceptLogical b (s.load q later) = (acceptLogical b s).load q later := by
  rcases hp with hp | hp
  · rw [acceptLogical_hdr hp, acceptLogical_hdr (s := s.load q later) hp, acceptHdr_load]
  · rw [acceptLogical_pay hp, acceptLogical_pay (s := s.load q later) hp, acceptPay_load]

/-- The stop code as logical header byte 2 (R198). -/
theorem acceptLogical_stop (hp : s.phase = .hdr) (h2 : s.hcnt = 2) :
    acceptLogical s.stopCode s = enterStop (storeHdr s.stopCode s) := by
  rw [acceptLogical_hdr hp]; simp [acceptHdr, h2]

/-- A raw byte in a frame that is not a lone escape byte is run as its logical byte, be it LIT, ESCD or STOP. -/
theorem settle_takeToken_logical (hp : s.phase = .hdr ∨ s.phase = .pay) (hr : s.esc = true ∨ r ≠ escByte) :
    settle (takeToken r more s) = acceptLogical (logicalByte s r) { s with rx := more, esc := false } := by
  cases hc : completesStop s r with
  | true =>
    obtain ⟨hhdr, h2, -, hstop⟩ :
        s.phase = .hdr ∧ s.hcnt = 2 ∧ (s.esc = true ∨ r ≠ escByte) ∧ logicalByte s r = s.stopCode :=
      of_decide_eq_true hc
    rw [token_stop hc, settle_run, hstop]
    exact (execState_stop (s := { s with rx := more }) hhdr h2).trans
      (acceptLogical_stop (s := { s with rx := more, esc := false }) hhdr h2).symm
  | false =>
    cases he : s.esc with
    | true =>
      rw [token_escd hp he hc, settle_run, execState_escd (s := { s with rx := more }) hp he, logicalByte,
        if_pos he]
    | false =>
      have hne : r ≠ escByte := hr.resolve_left (by rw [he]; exact Bool.false_ne_true)
      rw [token_lit hp he hne hc, settle_run, execState_lit (s := { s with rx := more }) hp he, logicalByte,
        if_neg (by rw [he]; exact Bool.false_ne_true)]
      exact congrArg (acceptLogical r) (clearEsc_eq (s := { s with rx := more }) he).symm

/-- The frame takes the logical bytes one after the other, each in HDR or PAY and outside an escape pair. -/
inductive Accepts : State → List Byte → State → Prop
  | nil (s : State) : Accepts s [] s
  | cons {s t : State} {b : Byte} {bs : List Byte} (hp : s.phase = .hdr ∨ s.phase = .pay) (he : s.esc = false)
      (h : Accepts (acceptLogical b s) bs t) : Accepts s (b :: bs) t

theorem Accepts.append {u : State} {bs cs : List Byte} (h : Accepts s bs t) (h' : Accepts t cs u) :
    Accepts s (bs ++ cs) u := by
  induction h with
  | nil => exact h'
  | cons hp he _ ih => exact .cons hp he (ih h')

theorem Accepts.single {b : Byte} (hp : s.phase = .hdr ∨ s.phase = .pay) (he : s.esc = false) :
    Accepts s [b] (acceptLogical b s) := .cons hp he (.nil _)

/-! ## Raw bytes -/

/-- A raw byte other than the escape byte is one turn and one logical byte. -/
theorem settle_turn_raw {c : Bool × Bool} {later : List Event} (hp : s.phase = .hdr ∨ s.phase = .pay)
    (he : s.esc = false) (hr : r ≠ escByte) :
    settle (engineTurn c.1 c.2 (s.load (r :: more) later)) = (acceptLogical r s).load more later := by
  have hl : logicalByte (s.load (r :: more) later) r = r := if_neg (by simp [State.load, he])
  rw [engineTurn_token (s := s.load (r :: more) later) (by tauto) rfl,
    settle_takeToken_logical (s := s.load (r :: more) later) hp (.inr hr), hl, ← acceptLogical_load hp]
  exact congrArg (acceptLogical r) (clearEsc_eq (s := s.load more later) he)

theorem settle_turn_esc {c : Bool × Bool} {later : List Event} (hp : s.phase = .hdr ∨ s.phase = .pay)
    (he : s.esc = false) :
    settle (engineTurn c.1 c.2 (s.load (escByte :: more) later)) =
      State.load { s with esc := true } more later := by
  rw [engineTurn_token (s := s.load (escByte :: more) later) (by tauto) rfl,
    token_esc (s := s.load (escByte :: more) later) hp he, settle_run]
  exact execState_esc (s := s.load more later) hp he

/-- The byte after an escape byte is one logical byte. -/
theorem settle_turn_escaped {c : Bool × Bool} {later : List Event} (hp : s.phase = .hdr ∨ s.phase = .pay)
    (he : s.esc = false) :
    settle (engineTurn c.1 c.2 (State.load { s with esc := true } (r :: more) later)) =
      (acceptLogical (unescape r) s).load more later := by
  rw [engineTurn_token (s := State.load { s with esc := true } (r :: more) later) (by tauto) rfl,
    settle_takeToken_logical (s := State.load { s with esc := true } (r :: more) later) hp (.inl rfl),
    ← acceptLogical_load hp]
  exact congrArg (acceptLogical (unescape r)) (clearEsc_eq (s := s.load more later) he)

/-- The turns that take the raw bytes of a frame leave what its logical bytes make of the decoder, and take no other
byte (R109). -/
theorem run_raw (raw : List Byte) {bs : List Byte} (h : Accepts s bs t) (hraw : unescapeBytes raw = some bs)
    (hlen : raw.length ≤ turns.length) :
    Host.Core.run Sys2Proof.core raw.length (s.load (raw ++ more) (engineTurns turns ++ rest)) =
      .next (t.load more (engineTurns (turns.drop raw.length) ++ rest)) := by
  induction raw using unescapeBytes.induct generalizing s bs turns with
  | case1 =>
    cases hraw; cases h; rfl
  | case2 => simp [unescapeBytes_lone] at hraw
  | case3 q raw ih =>
    obtain ⟨cs, hcs, rfl⟩ := Option.map_eq_some_iff.mp ((unescapeBytes_pair q raw).symm.trans hraw)
    obtain ⟨c, d, turns, rfl⟩ : ∃ c d turns', turns = c :: d :: turns' := by
      match turns, hlen with
      | c :: d :: turns', _ => exact ⟨c, d, turns', rfl⟩
    cases h with
    | cons hp he h =>
      calc Host.Core.run Sys2Proof.core (raw.length + 1 + 1)
            (s.load (escByte :: q :: (raw ++ more)) (engineTurns (c :: d :: turns) ++ rest))
          = Host.Core.run Sys2Proof.core (raw.length + 1)
              (State.load { s with esc := true } (q :: (raw ++ more)) (engineTurns (d :: turns) ++ rest)) := by
            rw [run_engineTurn, settle_turn_esc hp he]
        _ = Host.Core.run Sys2Proof.core raw.length
              ((acceptLogical (unescape q) s).load (raw ++ more) (engineTurns turns ++ rest)) := by
            rw [run_engineTurn, settle_turn_escaped hp he]
        _ = _ := ih h hcs (by simpa using hlen)
  | case4 r raw hr ih =>
    obtain ⟨cs, hcs, rfl⟩ := Option.map_eq_some_iff.mp ((unescapeBytes_lit hr raw).symm.trans hraw)
    obtain ⟨c, turns, rfl⟩ : ∃ c turns', turns = c :: turns' := by
      match turns, hlen with
      | c :: turns', _ => exact ⟨c, turns', rfl⟩
    cases h with
    | cons hp he h =>
      calc Host.Core.run Sys2Proof.core (raw.length + 1)
            (s.load (r :: (raw ++ more)) (engineTurns (c :: turns) ++ rest))
          = Host.Core.run Sys2Proof.core raw.length
              ((acceptLogical r s).load (raw ++ more) (engineTurns turns ++ rest)) := by
            rw [run_engineTurn, settle_turn_raw hp he hr]
        _ = _ := ih h hcs (by simpa using hlen)

/-- The turns that take a marker and the raw bytes of a frame. -/
theorem run_marker_raw {raw bs : List Byte} (hp : s.phase = .poll) (h : Accepts (startFrame s) bs t)
    (hraw : unescapeBytes raw = some bs) (hrx : s.rx = markerByte :: raw ++ more)
    (hscript : s.script = engineTurns turns ++ rest) (hlen : raw.length + 1 ≤ turns.length) :
    Host.Core.run Sys2Proof.core (raw.length + 1) s =
      .next (t.load more (engineTurns (turns.drop (raw.length + 1)) ++ rest)) := by
  obtain ⟨c, turns, rfl⟩ : ∃ c turns', turns = c :: turns' := by
    match turns, hlen with
    | c :: turns', _ => exact ⟨c, turns', rfl⟩
  have hs : s = s.load (markerByte :: (raw ++ more)) (engineTurns (c :: turns) ++ rest) := by
    rw [State.load, ← hscript, show markerByte :: (raw ++ more) = s.rx from hrx.symm]
  have hmark : settle (engineTurn c.1 c.2 (s.load (markerByte :: (raw ++ more)) (engineTurns turns ++ rest))) =
      (startFrame s).load (raw ++ more) (engineTurns turns ++ rest) := by
    rw [engineTurn_token (s := s.load (markerByte :: (raw ++ more)) _) (.inl hp) rfl,
      token_marker (s := s.load (markerByte :: (raw ++ more)) _) hp, settle_run]
    exact execState_marker (s := s.load (raw ++ more) _) hp
  rw [hs, run_engineTurn, hmark]
  exact run_raw raw h hraw (by simpa using hlen)

end Sys2Proof.Machine
end

section
/-! PROOFS. 10_state: consecutive bytes of a store written one after the other. -/

namespace Sys2Proof.Machine

/-- Bytes written to rising addresses from `a` on. -/
def putBytes (a : Nat) : List Byte → Memory → Memory
  | [], m => m
  | b :: bs, m => putBytes (a + 1) bs (memPut m a b)

theorem putBytes_concat (a : Nat) (bs : List Byte) (b : Byte) (m : Memory) :
    putBytes a (bs ++ [b]) m = memPut (putBytes a bs m) (a + bs.length) b := by
  induction bs generalizing a m with
  | nil => rfl
  | cons c bs ih =>
    rw [List.cons_append, putBytes, ih, putBytes, List.length_cons, Nat.add_right_comm, Nat.add_assoc]

theorem memGet_putBytes_elsewhere {m : Memory} (hm : Memory.wf m) {a k : Nat} {bs : List Byte}
    (hk : k < a ∨ a + bs.length ≤ k) : memGet (putBytes a bs m) k = memGet m k := by
  induction bs generalizing a m with
  | nil => rfl
  | cons b bs ih =>
    rw [List.length_cons] at hk
    rw [putBytes, ih (memPut_wf a b hm) (by omega), memGet_memPut m a k b hm, if_neg (by omega)]

theorem memGet_putBytes {m : Memory} (hm : Memory.wf m) (a : Nat) {i : Nat} {bs : List Byte} (hi : i < bs.length) :
    memGet (putBytes a bs m) (a + i) = some bs[i] := by
  induction bs generalizing a m i with
  | nil => exact absurd hi (Nat.not_lt_zero i)
  | cons b bs ih =>
    have hm' := memPut_wf a b hm
    rw [putBytes]
    cases i with
    | zero =>
      show memGet (putBytes (a + 1) bs (memPut m a b)) a = some b
      rw [memGet_putBytes_elsewhere hm' (.inl (Nat.lt_add_one a)), memGet_memPut m a a b hm, if_pos rfl]
    | succ i =>
      rw [show a + (i + 1) = a + 1 + i by omega]
      exact ih hm' (a + 1) (Nat.lt_of_succ_lt_succ hi)

end Sys2Proof.Machine
end

section
/-! PROOFS. 42_stream_decoder: what the logical bytes of a header and of a payload make of the decoder (R196-R201). -/

namespace Sys2Proof.Machine

variable {s : State}

/-! ## The header -/

/-- HDR with its first bytes given, the others 0 (R37). -/
def headerVec (got : List Byte) : Vector Byte 8 := Vector.ofFn fun i => got.getD i 0

theorem headerVec_nil : headerVec [] = Vector.replicate 8 0 := by decide

theorem headerVec_concat (got : List Byte) (b : Byte) :
    (headerVec got).setIfInBounds got.length b = headerVec (got ++ [b]) := by
  apply Vector.ext
  intro i hi
  rw [Vector.getElem_setIfInBounds hi]
  simp only [headerVec, Vector.getElem_ofFn, List.getD_eq_getElem?_getD]
  rcases Nat.lt_trichotomy got.length i with hlt | rfl | hgt
  · rw [if_neg (Nat.ne_of_lt hlt), List.getElem?_eq_none (Nat.le_of_lt hlt),
      List.getElem?_eq_none (by simpa using hlt)]
  · simp
  · rw [if_neg (Nat.ne_of_gt hgt), List.getElem?_append_left hgt]

theorem headerVec_getElem {got : List Byte} {i : Nat} (h : i < got.length) (h8 : i < 8) :
    (headerVec got)[i] = got[i] := by
  rw [headerVec, Vector.getElem_ofFn, List.getD_eq_getElem _ _ h]

theorem headerVec_toList {hdr : List Byte} (h8 : hdr.length = 8) : (headerVec hdr).toList = hdr := by
  apply List.ext_getElem
  · rw [Vector.length_toList, h8]
  · intro i _ hi
    rw [Vector.getElem_toList, headerVec_getElem hi (h8 ▸ hi)]

/-- The decoder in a frame whose logical header bytes so far are given. -/
def readingHdr (s : State) (got : List Byte) : State :=
  { s with hdr := headerVec got, hcnt := got.length, plen := 0, pcnt := 0, scnt := 0, esc := false, phase := .hdr }

theorem readingHdr_nil (s : State) : readingHdr s [] = startFrame s := by
  rw [readingHdr, headerVec_nil]; rfl

theorem storeHdr_readingHdr (s : State) (got : List Byte) (b : Byte) :
    storeHdr b (readingHdr s got) = readingHdr s (got ++ [b]) := by
  have hv := headerVec_concat got b
  simp only [storeHdr, readingHdr, hv, List.length_append, List.length_singleton]

/-- A logical header byte that neither is the stop nor completes the header is stored. -/
theorem acceptLogical_readingHdr {got : List Byte} {b : Byte} (h7 : got.length < 7)
    (hno : got.length = 2 → b ≠ s.stopCode) : acceptLogical b (readingHdr s got) = readingHdr s (got ++ [b]) := by
  rw [acceptLogical_hdr rfl]
  rcases acceptHdr_cases b (readingHdr s got) with ⟨h2, hb, -⟩ | ⟨h7', -⟩ | ⟨-, -, e⟩
  · exact absurd hb (hno h2)
  · exact absurd h7' (Nat.ne_of_lt h7)
  · rw [e, storeHdr_readingHdr]

/-- The logical bytes of a header, up to its last, are stored one after the other. -/
theorem accepts_header {got bs : List Byte} (h7 : got.length + bs.length ≤ 7)
    (hno : ∀ i, (h : i < bs.length) → got.length + i = 2 → bs[i] ≠ s.stopCode) :
    Accepts (readingHdr s got) bs (readingHdr s (got ++ bs)) := by
  induction bs generalizing got with
  | nil => rw [List.append_nil]; exact .nil _
  | cons b bs ih =>
    rw [List.length_cons] at h7
    refine .cons (.inl rfl) rfl ?_
    have hb : acceptLogical b (readingHdr s got) = readingHdr s (got ++ [b]) :=
      acceptLogical_readingHdr (by omega) (hno 0 (Nat.succ_pos _))
    rw [hb, List.append_cons got b bs]
    refine ih (got := got ++ [b]) (by rw [List.length_append, List.length_singleton]; omega) fun i hi h2 => ?_
    rw [List.length_append, List.length_singleton] at h2
    exact hno (i + 1) (Nat.succ_lt_succ hi) (by omega)

/-- The whole header of a data frame: its last byte completes it (R200). -/
theorem accepts_data_header {hdr : List Byte} (h8 : hdr.length = 8) (hno : hdr[2] ≠ s.stopCode) :
    Accepts (startFrame s) hdr (headerDone (readingHdr s hdr)) := by
  have hsplit : hdr.take 7 ++ [hdr[7]] = hdr := by
    rw [← List.take_succ_eq_append_getElem, List.take_of_length_le (Nat.le_of_eq h8)]
  have hlen : (hdr.take 7).length = 7 := by rw [List.length_take, h8]; rfl
  have first : Accepts (readingHdr s []) (hdr.take 7) (readingHdr s ([] ++ hdr.take 7)) := by
    refine accepts_header (by rw [hlen]; decide) fun i hi h2 => ?_
    obtain rfl : i = 2 := by simpa using h2
    rwa [List.getElem_take]
  have last : acceptLogical hdr[7] (readingHdr s (hdr.take 7)) = headerDone (readingHdr s hdr) := by
    rw [acceptLogical_hdr rfl]
    rcases acceptHdr_cases hdr[7] (readingHdr s (hdr.take 7)) with ⟨h2, -⟩ | ⟨-, e⟩ | ⟨h7, -⟩
    · exact absurd (hlen.symm.trans h2) (by decide)
    · rw [e, storeHdr_readingHdr, hsplit]
    · exact absurd hlen h7
  rw [← readingHdr_nil]
  have := first.append (last ▸ Accepts.single (.inl rfl) rfl)
  rwa [hsplit] at this

/-- The three header bytes of a stop notification (R198). -/
theorem accepts_stop_header (s : State) (c0 c1 : Byte) :
    Accepts (startFrame s) [c0, c1, s.stopCode] (enterStop (readingHdr s [c0, c1, s.stopCode])) := by
  have first : Accepts (readingHdr s []) [c0, c1] (readingHdr s [c0, c1]) :=
    accepts_header (got := []) (by simp) fun i hi h2 => by
      simp only [List.length_cons, List.length_nil] at hi h2; omega
  have last : acceptLogical s.stopCode (readingHdr s [c0, c1]) = enterStop (readingHdr s [c0, c1, s.stopCode]) :=
    (acceptLogical_stop (s := readingHdr s [c0, c1]) rfl rfl).trans (congrArg enterStop (storeHdr_readingHdr s _ _))
  rw [← readingHdr_nil]
  exact first.append (last ▸ Accepts.single (.inl rfl) rfl)

/-! ## The payload -/

/-- The decoder in a frame with its header complete and its logical payload bytes so far given. -/
def readingPay (s : State) (hdr got : List Byte) : State :=
  { s with
    hdr := headerVec hdr
    hcnt := hdr.length
    plen := plenOf (headerVec hdr)[3]
    pcnt := got.length
    scnt := 0
    esc := false
    pay := putBytes 0 got s.pay
    phase := if got.length = plenOf (headerVec hdr)[3] then .check else .pay }

theorem headerDone_readingHdr (s : State) (hdr : List Byte) :
    headerDone (readingHdr s hdr) = readingPay s hdr [] := by
  unfold headerDone readingPay
  simp only [List.length_nil, eq_comm (a := 0)]; rfl

theorem readingPay_phase {hdr got : List Byte} (h : got.length < plenOf (headerVec hdr)[3]) :
    (readingPay s hdr got).phase = .pay := if_neg (Nat.ne_of_lt h)

/-- A logical payload byte is stored behind those before it (R201). -/
theorem acceptLogical_readingPay {hdr got : List Byte} (h : got.length < plenOf (headerVec hdr)[3]) (b : Byte) :
    acceptLogical b (readingPay s hdr got) = readingPay s hdr (got ++ [b]) := by
  have hpay : (storePaybuf (readingPay s hdr got).pcnt b (readingPay s hdr got)).pay =
      putBytes 0 (got ++ [b]) s.pay := by
    rw [storePaybuf_pay, putBytes_concat, Nat.zero_add]
    exact if_pos (Nat.lt_of_lt_of_le h (plenOf_le _))
  rw [acceptLogical_pay (readingPay_phase h), acceptPay_eq, hpay]
  simp only [readingPay, List.length_append, List.length_singleton]; rfl

theorem accepts_payload {hdr got bs : List Byte} (h : got.length + bs.length ≤ plenOf (headerVec hdr)[3]) :
    Accepts (readingPay s hdr got) bs (readingPay s hdr (got ++ bs)) := by
  induction bs generalizing got with
  | nil => rw [List.append_nil]; exact .nil _
  | cons b bs ih =>
    rw [List.length_cons] at h
    have hlt : got.length < plenOf (headerVec hdr)[3] := by omega
    refine .cons (.inr (readingPay_phase hlt)) rfl ?_
    rw [acceptLogical_readingPay hlt, List.append_cons got b bs]
    exact ih (got := got ++ [b]) (by rw [List.length_append, List.length_singleton]; omega)

/-- The logical bytes of a data frame. -/
theorem accepts_data_frame {hdr payload : List Byte} (h8 : hdr.length = 8) (hno : hdr[2] ≠ s.stopCode)
    (hlen : payload.length = plenOf hdr[3]) :
    Accepts (startFrame s) (hdr ++ payload) (readingPay s hdr payload) := by
  have h3 : (headerVec hdr)[3] = hdr[3] := headerVec_getElem (by omega) (by decide)
  have header := accepts_data_header h8 hno
  rw [headerDone_readingHdr] at header
  exact header.append (accepts_payload (got := []) (by simp [h3, hlen]))

/-! ## What the decoder then holds -/

theorem payBytes_readingPay (hm : Memory.wf s.pay) (hdr payload : List Byte) :
    payBytes (readingPay s hdr payload) payload.length = payload := by
  apply List.ext_getElem
  · rw [payBytes_length]
  · intro i _ hi
    have hget := memGet_putBytes hm 0 hi
    rw [Nat.zero_add] at hget
    simp only [payBytes, List.getElem_map, List.getElem_range, paybuf, readingPay, hget, Option.getD_some]

end Sys2Proof.Machine
end

section
/-! PROOFS. 42_stream_decoder: whole frames, from the marker to the end of the operation or the next poll: delivered
(O47), dropped (O48), and the stop notification (O49). -/

namespace Sys2Proof.Machine

variable {s : State} {more hdr payload : List Byte} {rest : List Event} {turns : List (Bool × Bool)}

/-! ## The end of a decode: it changes no field but the flags, the operation and the phase (R191, R192) -/

theorem endTryOrPoll_try (h : s.op = .tryDecode) (r : Result) : endTryOrPoll r s = finish r s := if_pos h

theorem endTryOrPoll_drain (h : s.op = .drain) (r : Result) : endTryOrPoll r s = { s with phase := .poll } :=
  if_neg (by rw [h]; decide)

/-! ## The end of a frame read whole -/

theorem emitStep_data (hk : s.kind = .data) (hroom : emitRoom s = true) :
    emitStep s = endTryOrPoll .frameDecoded { pushFrame s with nframes := s.nframes + 1 } := by
  rw [emitStep, if_pos hroom, hk]

theorem emitStep_stop (hk : s.kind = .stop) (hroom : emitRoom s = true) :
    emitStep s = finish .streamStopped (pushFrame s) := by
  rw [emitStep, if_pos hroom, hk]

/-- A frame that passed the check, as it waits in EMIT (R202). -/
def passed (s : State) : State :=
  { s with ckCalc := cksum16 (streamCovered s), ckClaim := be16 s.hdr[0] s.hdr[1], kind := .data, phase := .emit }

/-- A good frame in CHECK after the turns of CHECK and EMIT, less its end (R202, R204). -/
def delivered (s : State) (more : List Byte) (rest : List Event) : State :=
  { s with
    ckCalc := cksum16 (streamCovered s), ckClaim := be16 s.hdr[0] s.hdr[1], kind := .data, phase := .emit
    sample := s.sample ++ sampleCodes (payBytes s s.plen)
    fdesc := s.fdesc ++ [⟨s.hdr[4], BitVec.ofNat 8 (s.plen / 2), .data⟩]
    nframes := s.nframes + 1, rx := more, script := rest }

/-- A bad frame in CHECK after the turn of CHECK, less its end (R203). -/
def dropped (s : State) (more : List Byte) (rest : List Event) : State :=
  { s with
    ckCalc := cksum16 (streamCovered s), ckClaim := be16 s.hdr[0] s.hdr[1]
    dropCnt := s.dropCnt + 1, rx := more, script := rest }

theorem checkStep_good {later : List Event} (hgood : cksum16 (streamCovered s) = be16 s.hdr[0] s.hdr[1]) :
    checkStep (s.load more later) = (passed s).load more later := by
  rcases checkStep_cases (s.load more later) with ⟨-, e⟩ | ⟨hne, -⟩
  · exact e
  · exact absurd hgood hne

theorem checkStep_bad {later : List Event} (hbad : cksum16 (streamCovered s) ≠ be16 s.hdr[0] s.hdr[1]) :
    checkStep (s.load more later) = endTryOrPoll .noData (dropped s more later) := by
  rcases checkStep_cases (s.load more later) with ⟨heq, -⟩ | ⟨-, e⟩
  · exact absurd heq hbad
  · exact e

theorem emitStep_passed {later : List Event} (hsample : s.sample.length + s.plen / 2 ≤ s.params.sampleDepth)
    (hfdesc : s.fdesc.length + 1 ≤ s.params.fdescDepth) :
    emitStep ((passed s).load more later) = endTryOrPoll .frameDecoded (delivered s more later) :=
  emitStep_data (s := (passed s).load more later) rfl ((emitRoom_iff _).mpr ⟨hsample, hfdesc⟩)

/-- The turn of CHECK drops a bad frame. -/
theorem run_dropped (c : Bool × Bool) (hp : s.phase = .check)
    (hbad : cksum16 (streamCovered s) ≠ be16 s.hdr[0] s.hdr[1]) :
    Host.Core.run Sys2Proof.core 1 (s.load more (engineTurns [c] ++ rest)) =
      .next (endTryOrPoll .noData (dropped s more rest)) := by
  rw [run_engineTurn, engineTurn_check (s := s.load more _) hp, settle_done, checkStep_bad hbad]; rfl

/-- The turns of CHECK and EMIT deliver a good frame for which there is room. -/
theorem run_delivered (c d : Bool × Bool) (hp : s.phase = .check)
    (hgood : cksum16 (streamCovered s) = be16 s.hdr[0] s.hdr[1])
    (hsample : s.sample.length + s.plen / 2 ≤ s.params.sampleDepth)
    (hfdesc : s.fdesc.length + 1 ≤ s.params.fdescDepth) :
    Host.Core.run Sys2Proof.core 2 (s.load more (engineTurns [c, d] ++ rest)) =
      .next (endTryOrPoll .frameDecoded (delivered s more rest)) := by
  rw [run_engineTurn, engineTurn_check (s := s.load more _) hp, settle_done, checkStep_good hgood, run_engineTurn,
    engineTurn_emit (s := (passed s).load more _) rfl, settle_done, emitStep_passed hsample hfdesc]
  rfl

/-! ## Data frames -/

theorem readingPay_hdr_getElem (h8 : hdr.length = 8) {i : Nat} (hi : i < 8) :
    (readingPay s hdr payload).hdr[i] = hdr[i] := headerVec_getElem (h8 ▸ hi) hi

theorem readingPay_plen (h8 : hdr.length = 8) (hlen : payload.length = plenOf hdr[3]) :
    (readingPay s hdr payload).plen = payload.length :=
  (congrArg plenOf (readingPay_hdr_getElem (s := s) (payload := payload) h8 (by decide))).trans hlen.symm

theorem readingPay_phase_check (h8 : hdr.length = 8) (hlen : payload.length = plenOf hdr[3]) :
    (readingPay s hdr payload).phase = .check := if_pos (readingPay_plen (s := s) h8 hlen).symm

/-- The bytes the streaming checksum covers, of a frame read whole (R114). -/
theorem streamCovered_readingPay (hm : Memory.wf s.pay) (h8 : hdr.length = 8)
    (hlen : payload.length = plenOf hdr[3]) : streamCovered (readingPay s hdr payload) = hdr.drop 2 ++ payload := by
  rw [streamCovered, readingPay_plen h8 hlen, payBytes_readingPay hm]
  exact congrArg (·.drop 2 ++ payload) (headerVec_toList h8)

/-- The frame check compares the frame's streaming checksum with its first two header bytes (R114, R202). -/
theorem check_readingPay_iff (hm : Memory.wf s.pay) (h8 : hdr.length = 8) (hlen : payload.length = plenOf hdr[3]) :
    cksum16 (streamCovered (readingPay s hdr payload)) =
        be16 (readingPay s hdr payload).hdr[0] (readingPay s hdr payload).hdr[1] ↔
      cksum16 (hdr.drop 2 ++ payload) = be16 hdr[0] hdr[1] := by
  rw [streamCovered_readingPay hm h8 hlen, readingPay_hdr_getElem h8, readingPay_hdr_getElem h8]

/-- The turns that take a data frame leave it read whole, in CHECK. -/
theorem run_data_frame {raw : List Byte} (hp : s.phase = .poll) (h8 : hdr.length = 8) (hno : hdr[2] ≠ s.stopCode)
    (hlen : payload.length = plenOf hdr[3]) (hraw : unescapeBytes raw = some (hdr ++ payload))
    (hrx : s.rx = markerByte :: raw ++ more) (hscript : s.script = engineTurns turns ++ rest)
    (hturns : raw.length + 1 ≤ turns.length) :
    Host.Core.run Sys2Proof.core (raw.length + 1) s =
      .next ((readingPay s hdr payload).load more (engineTurns (turns.drop (raw.length + 1)) ++ rest)) :=
  run_marker_raw hp (accepts_data_frame h8 hno hlen) hraw hrx hscript hturns

/-- Settles O48: the frame is read whole, and the turn of CHECK drops it. -/
theorem corruptFrameIsDroppedAndCounted : Obligations.CorruptFrameIsDroppedAndCounted := by
  intro s raw hdr payload more turns rest hm hp hop h8 hno hlen hbad hraw hrx hturns hscript
  obtain ⟨c, hc⟩ : ∃ c, turns.drop (raw.length + 1) = [c] :=
    List.length_eq_one_iff.mp (by rw [List.length_drop]; omega)
  have hread := run_data_frame hp h8 hno hlen hraw hrx hscript (by omega)
  rw [hc] at hread
  have hrun := (run_add hread 1).trans (run_dropped (s := readingPay s hdr payload) c (readingPay_phase_check h8 hlen)
    (mt (check_readingPay_iff hm h8 hlen).mp hbad))
  have hsame : (dropped (readingPay s hdr payload) more rest).op = s.op := by dsimp only [dropped, readingPay]
  rcases hop with ht | hd
  · rw [endTryOrPoll_try (hsame.trans ht)] at hrun
    exact ⟨_, hrun, by simp [dropped, readingPay, ht]⟩
  · rw [endTryOrPoll_drain (hsame.trans hd)] at hrun
    exact ⟨_, hrun, by simp [dropped, readingPay, hd]⟩

/-- Settles O47: the frame is read whole, and the turns of CHECK and EMIT deliver it. -/
theorem wellFormedFrameIsDelivered : Obligations.WellFormedFrameIsDelivered := by
  intro s raw hdr payload more turns rest hm hp hop h8 hno hlen hgood hraw hrx hsample hfdesc hturns hscript
  obtain ⟨c, d, hcd⟩ : ∃ c d, turns.drop (raw.length + 1) = [c, d] :=
    List.length_eq_two.mp (by rw [List.length_drop]; omega)
  have hread := run_data_frame hp h8 hno hlen hraw hrx hscript (by omega)
  rw [hcd] at hread
  have hplen : (readingPay s hdr payload).plen = payload.length := readingPay_plen h8 hlen
  have hrun := (run_add hread 2).trans (run_delivered (s := readingPay s hdr payload) c d
    (readingPay_phase_check h8 hlen) ((check_readingPay_iff hm h8 hlen).mpr hgood) (by rw [hplen]; exact hsample)
    hfdesc)
  have hsame : (delivered (readingPay s hdr payload) more rest).op = s.op := by dsimp only [delivered, readingPay]
  have hcodes : (delivered (readingPay s hdr payload) more rest).sample = s.sample ++ sampleCodes payload := by
    simp only [delivered, hplen, payBytes_readingPay hm]; rfl
  have hdesc : (delivered (readingPay s hdr payload) more rest).fdesc =
      s.fdesc ++ [⟨hdr[4], BitVec.ofNat 8 (payload.length / 2), .data⟩] := by
    simp only [delivered, hplen, readingPay_hdr_getElem h8]; rfl
  have hhdr : (delivered (readingPay s hdr payload) more rest).hdr.toList = hdr := headerVec_toList h8
  rcases hop with ht | hd
  · rw [endTryOrPoll_try (hsame.trans ht)] at hrun
    exact ⟨_, hrun, hcodes, hdesc, hhdr, by simp [delivered, readingPay, ht]⟩
  · rw [endTryOrPoll_drain (hsame.trans hd)] at hrun
    exact ⟨_, hrun, hcodes, hdesc, hhdr, by simp [delivered, readingPay, hd]⟩

/-! ## The stop notification -/

/-- The command echo taken (R199). -/
def takeEcho (r : Byte) (s : State) : State := { s with aux1 := r, scnt := 1 }

/-- The channel id taken (R199). -/
def takeChannel (r : Byte) (s : State) : State := { s with aux2 := r, kind := .stop, phase := .emit }

theorem settle_turn_echo {c : Bool × Bool} {r : Byte} {later : List Event} (hp : s.phase = .stoprd)
    (h0 : s.scnt = 0) :
    settle (engineTurn c.1 c.2 (s.load (r :: more) later)) = (takeEcho r s).load more later := by
  rw [engineTurn_token (s := s.load (r :: more) later) (.inr (.inr (.inr hp))) rfl,
    token_stopb (s := s.load (r :: more) later) hp, settle_run]
  simp [execState, exec, execStopb, State.load, takeEcho, hp, h0]

theorem settle_turn_channel {c : Bool × Bool} {r : Byte} {later : List Event} (hp : s.phase = .stoprd)
    (h1 : s.scnt = 1) :
    settle (engineTurn c.1 c.2 (s.load (r :: more) later)) = (takeChannel r s).load more later := by
  rw [engineTurn_token (s := s.load (r :: more) later) (.inr (.inr (.inr hp))) rfl,
    token_stopb (s := s.load (r :: more) later) hp, settle_run]
  simp [execState, exec, execStopb, State.load, takeChannel, hp, h1]

/-- A stop pushes no sample, and a descriptor with the channel (R204). -/
theorem pushFrame_stop (hk : s.kind = .stop) :
    pushFrame s = { s with fdesc := s.fdesc ++ [⟨s.aux2, 0, .stop⟩] } := by
  simp only [pushFrame, emitCodes, emitDesc, hk, List.append_nil]

/-- A decoder in STOPRD after the two raw bytes of a stop notification and the turn of EMIT, less its end (R199). -/
def stopped (s : State) (echo chan : Byte) (more : List Byte) (rest : List Event) : State :=
  { s with
    aux1 := echo, scnt := 1, aux2 := chan, kind := .stop, phase := .emit
    fdesc := s.fdesc ++ [⟨chan, 0, .stop⟩], rx := more, script := rest }

/-- The two raw bytes and the turn of EMIT end the operation, when there is room for a descriptor. -/
theorem run_stopped (c d e : Bool × Bool) {echo chan : Byte} (hp : s.phase = .stoprd) (h0 : s.scnt = 0)
    (hsample : s.sample.length ≤ s.params.sampleDepth) (hfdesc : s.fdesc.length + 1 ≤ s.params.fdescDepth) :
    Host.Core.run Sys2Proof.core 3 (s.load (echo :: chan :: more) (engineTurns [c, d, e] ++ rest)) =
      .next (finish .streamStopped (stopped s echo chan more rest)) := by
  have hroom : emitRoom ((takeChannel chan (takeEcho echo s)).load more rest) = true :=
    (emitRoom_iff _).mpr ⟨hsample, hfdesc⟩
  have hemit : emitStep ((takeChannel chan (takeEcho echo s)).load more rest) =
      finish .streamStopped (stopped s echo chan more rest) :=
    (emitStep_stop rfl hroom).trans (congrArg (finish .streamStopped) (pushFrame_stop rfl))
  rw [run_engineTurn, settle_turn_echo hp h0, run_engineTurn, settle_turn_channel (s := takeEcho echo s) hp rfl,
    run_engineTurn, engineTurn_emit (s := (takeChannel chan (takeEcho echo s)).load more _) rfl, settle_done]
  exact congrArg Host.Outcome.next hemit

/-- Settles O49: the header is abandoned at its third byte, and the two raw bytes and the turn of EMIT end the
operation. -/
theorem stopNotificationIsDelivered : Obligations.StopNotificationIsDelivered := by
  intro s raw c0 c1 echo chan more turns rest hp hraw hrx hsample hfdesc hturns hscript
  obtain ⟨c, d, e, hcde⟩ : ∃ c d e, turns.drop (raw.length + 1) = [c, d, e] :=
    List.length_eq_three.mp (by rw [List.length_drop]; omega)
  have hread := run_marker_raw (more := echo :: chan :: more) hp (accepts_stop_header s c0 c1) hraw hrx hscript
    (by omega)
  rw [hcde] at hread
  have hrun := (run_add hread 3).trans (run_stopped c d e rfl rfl hsample hfdesc)
  exact ⟨_, hrun, by simp [stopped, readingHdr]⟩

end Sys2Proof.Machine
end

section
/-! PROOFS. 41_command_codec: a whole command exchange, from the CTRL write to its result (O35). -/

namespace Sys2Proof.Machine

variable {s : State} {q more : List Byte} {rest : List Event} {turns : List (Bool × Bool)}

/-! ## The CTRL write -/

/-- A command started and its packet formed (R161, R162), the CTRL write answered. -/
def commandStarted (s : State) : State :=
  { s with
    busy := true, done := false, result := .ok, op := .sendCmd, phase := .tx, resp := some ⟨false, 0⟩
    txck := cksum16 (s.cmd :: txBytes s s.txLen.toNat), txpkt := commandPacket s.cmd (txBytes s s.txLen.toNat)
    tidx := 0, rneed := 4 + s.respLen.toNat, echo := 0, respField := 0, rxCnt := 0 }

theorem run_sendCmd {w : Word} (hb : s.busy = false) (htx : s.txLen.toNat ≤ 512) (hresp : s.respLen.toNat ≤ 508)
    (hw : decodeCtrl w = .sendCmd) (hscript : s.script = .host 0x000#12 ⟨4, .write w⟩ :: rest) :
    Host.Core.run Sys2Proof.core 1 s = .next ((commandStarted s).load s.rx rest) := by
  have hok : argOk .sendCmd s = true := decide_eq_true ⟨htx, hresp⟩
  have hstart : startOp .sendCmd beginSend (respond false 0 { s with script := rest }) =
      (commandStarted s).load s.rx rest := by
    rcases startOp_cases .sendCmd beginSend (respond false 0 { s with script := rest }) with
      ⟨hb', -⟩ | ⟨-, -, e⟩ | ⟨-, hno, -⟩
    · exact absurd (hb.symm.trans hb') Bool.false_ne_true
    · exact e
    · exact absurd (hok.symm.trans hno) Bool.noConfusion
  refine (run_succ (step_host hscript) 0).trans ?_
  rw [hostAccess_ctrl, settle_run, hw]
  exact congrArg Host.Outcome.next hstart

/-! ## Phase TX -/

/-- A command of whose packet the first `k` bytes have been sent (R163). -/
def sending (s : State) (k : Nat) : State :=
  { s with tx := s.tx ++ s.txpkt.take k, tidx := k, phase := if k = s.txpkt.length then .rx else .tx }

theorem sending_phase {k : Nat} (h : k < s.txpkt.length) : (sending s k).phase = .tx := if_neg (Nat.ne_of_lt h)

theorem txStep_sending {k : Nat} (h : k < s.txpkt.length) :
    txStep ((sending s k).load q rest) = (sending s (k + 1)).load q rest := by
  simp only [txStep, sending, State.load, List.getElem?_eq_getElem h, List.take_succ_eq_append_getElem h,
    List.append_assoc]; rfl

theorem settle_turn_sending {c : Bool × Bool} {k : Nat} (hc : c.1 = true) (h : k < s.txpkt.length) :
    settle (engineTurn c.1 c.2 ((sending s k).load q rest)) = (sending s (k + 1)).load q rest := by
  rw [engineTurn_tx (s := (sending s k).load q rest) (sending_phase h), settle_done, if_pos hc, txStep_sending h]

/-- Turns at which the transport accepts send the packet to its end. -/
theorem run_sends {sends : List (Bool × Bool)} {k : Nat} (hready : ∀ c ∈ sends, c.1 = true)
    (hlen : k + sends.length = s.txpkt.length) :
    Host.Core.run Sys2Proof.core sends.length ((sending s k).load q (engineTurns sends ++ rest)) =
      .next ((sending s s.txpkt.length).load q rest) := by
  induction sends generalizing k with
  | nil => rw [← hlen]; rfl
  | cons c cs ih =>
    obtain ⟨hc, hcs⟩ := List.forall_mem_cons.mp hready
    rw [List.length_cons] at hlen
    rw [List.length_cons, run_engineTurn, settle_turn_sending hc (by omega)]
    exact ih hcs (by omega)

/-! ## Phase RX -/

/-- A command to which the first bytes of its response have been received (R164). -/
def receiving (s : State) (got : List Byte) : State :=
  { s with
    mem := putBytes rxbufBase got s.mem, rxCnt := got.length
    echo := got[2]?.getD s.echo, respField := got[3]?.getD s.respField
    phase := if got.length = s.rneed then .rchk else .rx }

theorem receiving_phase {got : List Byte} (h : got.length < s.rneed) : (receiving s got).phase = .rx :=
  if_neg (Nat.ne_of_lt h)

/-- A byte kept while it is not the last of a list, and then that last one. -/
theorem getElem?_concat_getD (got : List Byte) (r old : Byte) (i : Nat) :
    (got ++ [r])[i]?.getD old = if got.length = i then r else got[i]?.getD old := by
  rcases Nat.lt_trichotomy got.length i with hlt | rfl | hgt
  · rw [if_neg (Nat.ne_of_lt hlt), List.getElem?_eq_none (Nat.le_of_lt hlt),
      List.getElem?_eq_none (by simpa using hlt)]
  · simp
  · rw [if_neg (Nat.ne_of_gt hgt), List.getElem?_append_left hgt]

theorem storeRxbuf_mem {i : Nat} (hi : i < bufSize) (b : Byte) (s : State) :
    (storeRxbuf i b s).mem = memPut s.mem (rxbufBase + i) b := by
  rw [storeRxbuf, if_pos hi, storeByte_mem]

theorem rxStep_receiving {got : List Byte} (h : got.length < bufSize) (r : Byte) :
    rxStep r ((receiving s got).load q rest) = (receiving s (got ++ [r])).load q rest := by
  have hmem : (storeRxbuf ((receiving s got).load q rest).rxCnt r ((receiving s got).load q rest)).mem =
      putBytes rxbufBase (got ++ [r]) s.mem :=
    (storeRxbuf_mem h r _).trans (putBytes_concat ..).symm
  rw [rxStep_eq, hmem]
  simp only [receiving, State.load, getElem?_concat_getD, List.length_append, List.length_singleton]; rfl

theorem settle_turn_receiving {c : Bool × Bool} {got : List Byte} {r : Byte} (h : got.length < s.rneed)
    (hsize : s.rneed ≤ bufSize) :
    settle (engineTurn c.1 c.2 ((receiving s got).load (r :: more) rest)) =
      (receiving s (got ++ [r])).load more rest := by
  rw [engineTurn_rx (s := (receiving s got).load (r :: more) rest) (receiving_phase h) rfl, settle_done]
  exact rxStep_receiving (s := s) (q := more) (rest := rest) (Nat.lt_of_lt_of_le h hsize) r

/-- The turns of phase RX take the bytes of the response one after the other, and no other byte. -/
theorem run_reads {got bs : List Byte} {reads : List (Bool × Bool)} (hneed : got.length + bs.length ≤ s.rneed)
    (hsize : s.rneed ≤ bufSize) (hlen : bs.length ≤ reads.length) :
    Host.Core.run Sys2Proof.core bs.length ((receiving s got).load (bs ++ more) (engineTurns reads ++ rest)) =
      .next ((receiving s (got ++ bs)).load more (engineTurns (reads.drop bs.length) ++ rest)) := by
  induction bs generalizing got reads with
  | nil => rw [List.append_nil]; rfl
  | cons b bs ih =>
    obtain ⟨c, reads, rfl⟩ : ∃ c reads', reads = c :: reads' := by
      match reads, hlen with
      | c :: reads', _ => exact ⟨c, reads', rfl⟩
    rw [List.length_cons] at hneed
    rw [List.length_cons, List.cons_append, run_engineTurn, settle_turn_receiving (by omega) hsize,
      List.append_cons got b bs]
    exact ih (by rw [List.length_append, List.length_singleton]; omega) (Nat.le_of_succ_le_succ hlen)

/-! ## Phase RCHK -/

/-- A byte of a response received is at its place in RXBUF. -/
theorem rxbuf_receiving (hm : Memory.wf s.mem) {got : List Byte} {i : Nat} (hi : i < got.length) :
    rxbuf (receiving s got) i = got[i] := by
  simp only [rxbuf, readByte, receiving, memGet_putBytes hm rxbufBase hi, Option.getD_some]

/-- No other byte of TXBUF or RXBUF is changed (R39). -/
theorem readByte_receiving (hm : Memory.wf s.mem) {got : List Byte} {a : Nat}
    (ha : a < rxbufBase ∨ rxbufBase + got.length ≤ a) : readByte (receiving s got) a = readByte s a := by
  simp only [readByte, receiving, memGet_putBytes_elsewhere hm ha]

theorem rxBytes_receiving (hm : Memory.wf s.mem) (got : List Byte) (lo : Nat) :
    rxBytes (receiving s got) lo (got.length - lo) = got.drop lo := by
  apply List.ext_getElem
  · rw [rxBytes_length, List.length_drop]
  · intro i _ hi
    rw [List.length_drop] at hi
    simp only [rxBytes, List.getElem_map, List.getElem_range, List.getElem_drop]
    exact rxbuf_receiving hm (by omega)

/-- The result of a response to a command that asked for `respLen` bytes (R166-R168). -/
def responseResult (resp : List Byte) (h : 4 ≤ resp.length) (respLen : Nat) : Result :=
  if cksum16 (resp.drop 2) ≠ be16 resp[0] resp[1] then .checksumMismatch
  else if resp[3].toNat ≠ respLen then .lengthMismatch else .ok

theorem rchkStep_receiving (hm : Memory.wf s.mem) {got : List Byte} (h4 : 4 ≤ got.length)
    (hneed : got.length = s.rneed) :
    rchkStep ((receiving s got).load q rest) =
      finish (responseResult got h4 s.respLen.toNat)
        { (receiving s got).load q rest with ckClaim := be16 got[0] got[1], ckCalc := cksum16 (got.drop 2) } := by
  have h0 : rxbuf (receiving s got) 0 = got[0] := rxbuf_receiving hm _
  have h1 : rxbuf (receiving s got) 1 = got[1] := rxbuf_receiving hm _
  have h3 : rxbuf (receiving s got) 3 = got[3] := rxbuf_receiving hm _
  have hcov := rxBytes_receiving hm got 2
  rw [hneed] at hcov
  rw [responseResult, ← h0, ← h1, ← h3, ← hcov]; rfl

/-! ## The whole exchange -/

/-- The command with its packet sent, waiting for its response. -/
def commandSent (s : State) : State := sending (commandStarted s) (commandStarted s).txpkt.length

theorem sending_commandStarted (s : State) : sending (commandStarted s) 0 = commandStarted s := by
  simp [sending, commandStarted, commandPacket]

theorem receiving_commandSent (s : State) : receiving (commandSent s) [] = commandSent s := by
  have hneed : ¬0 = 4 + s.respLen.toNat := by omega
  simp [receiving, commandSent, sending, commandStarted, putBytes, hneed]

/-- The CTRL write and the turns that send the packet. -/
theorem run_command {w : Word} {sends : List (Bool × Bool)} (hb : s.busy = false) (htx : s.txLen.toNat ≤ 512)
    (hresp : s.respLen.toNat ≤ 508) (hw : decodeCtrl w = .sendCmd) (hsends : sends.length = 3 + s.txLen.toNat)
    (hready : ∀ c ∈ sends, c.1 = true)
    (hscript : s.script = .host 0x000#12 ⟨4, .write w⟩ :: (engineTurns sends ++ rest)) :
    Host.Core.run Sys2Proof.core (1 + sends.length) s = .next ((commandSent s).load s.rx rest) := by
  have hlen : 0 + sends.length = (commandStarted s).txpkt.length := by
    rw [show (commandStarted s).txpkt = commandPacket s.cmd (txBytes s s.txLen.toNat) from rfl, commandPacket_length,
      txBytes_length]
    omega
  rw [run_add (run_sendCmd hb htx hresp hw hscript), ← sending_commandStarted]
  exact run_sends hready hlen

/-- The turns that receive the response and check it. -/
theorem run_response {resp : List Byte} {reads : List (Bool × Bool)} (hm : Memory.wf s.mem)
    (hresp : s.respLen.toNat ≤ 508) (h : resp.length = 4 + s.respLen.toNat) (hreads : reads.length = resp.length + 1) :
    Host.Core.run Sys2Proof.core (resp.length + 1)
        ((commandSent s).load (resp ++ more) (engineTurns reads ++ rest)) =
      .next (finish (responseResult resp (by omega) s.respLen.toNat)
        { (receiving (commandSent s) resp).load more rest with
          ckClaim := be16 resp[0] resp[1], ckCalc := cksum16 (resp.drop 2) }) := by
  obtain ⟨c, hc⟩ : ∃ c, reads.drop resp.length = [c] :=
    List.length_eq_one_iff.mp (by rw [List.length_drop]; omega)
  have hneed : (commandSent s).rneed = 4 + s.respLen.toNat := rfl
  have hread := run_reads (s := commandSent s) (got := []) (bs := resp) (reads := reads) (more := more) (rest := rest)
    (by rw [hneed, h, List.length_nil]; omega) (by rw [hneed, bufSize]; omega) (by omega)
  rw [receiving_commandSent, hc, List.nil_append] at hread
  have hp : (receiving (commandSent s) resp).phase = .rchk := if_pos (h.trans hneed.symm)
  rw [run_add hread 1, run_engineTurn, engineTurn_rchk (s := (receiving (commandSent s) resp).load more _) hp,
    settle_done, rchkStep_receiving (s := commandSent s) hm (by omega) (h.trans hneed.symm)]
  rfl

/-- Settles O35: the CTRL write starts the command, its packet is sent, the response received, and then checked. -/
theorem commandExchangeRunsToItsResult : Obligations.CommandExchangeRunsToItsResult := by
  intro s w resp more sends reads rest hm hb htx hresp hw h hrx hsends hready hreads hscript
  have hsent := run_command (rest := engineTurns reads ++ rest) hb htx hresp hw hsends hready
    (by rw [hscript, List.append_assoc, List.cons_append])
  have hrun := run_response (more := more) (rest := rest) hm hresp h hreads
  rw [← hreads, ← hrx, ← run_add hsent] at hrun
  have h2 : resp[2]? = some resp[2] := List.getElem?_eq_getElem _
  have h3 : resp[3]? = some resp[3] := List.getElem?_eq_getElem _
  refine ⟨_, hrun, ?_, rfl, rfl, fun i hi => rxbuf_receiving (s := commandSent s) hm hi,
    fun a ha => readByte_receiving (s := commandSent s) hm ha, ?_⟩
  · simp [receiving, commandSent, sending, commandStarted, State.load]
  · simp [receiving, commandSent, sending, commandStarted, State.load, responseResult, h2, h3]

end Sys2Proof.Machine
end

section
/-! PROOFS. 40_checksum: the checksum as a number (O26) and as two bytes (O27), and the engine steps of CKSUM (O28)
and VERIFY (O29). -/

namespace Sys2Proof.Machine

variable {s : State}

/-! ## The checksum as a number -/

theorem cksum16_toNat (bs : List Byte) : (cksum16 bs).toNat = byteSum bs % 65536 := BitVec.toNat_ofNat ..

theorem byteSum_append (xs ys : List Byte) : byteSum (xs ++ ys) = byteSum xs + byteSum ys := by
  rw [byteSum, List.map_append, List.sum_append]; rfl

theorem byteSum_perm {xs ys : List Byte} (h : xs.Perm ys) : byteSum xs = byteSum ys := (h.map _).sum_eq

/-- Settles O26: the unbounded byte sum is additive and blind to order, and reduction modulo 65536 keeps both. -/
theorem checksumIsTheByteSumMod65536 : Obligations.ChecksumIsTheByteSumMod65536 := by
  refine ⟨cksum16_toNat, rfl, fun xs ys => ?_, fun xs ys h => ?_⟩
  · rw [cksum16, byteSum_append, BitVec.ofNat_add]; rfl
  · rw [cksum16, byteSum_perm h]; rfl

/-! ## The checksum as two bytes -/

theorem be16_toNat (hi lo : Byte) : (be16 hi lo).toNat = hi.toNat * 256 + lo.toNat := append_toNat hi lo

theorem hi8_toNat (c : Half) : (hi8 c).toNat = c.toNat / 256 := by
  rw [hi8, BitVec.extractLsb'_toNat, Nat.shiftRight_eq_div_pow]; omega

theorem lo8_toNat (c : Half) : (lo8 c).toNat = c.toNat % 256 := BitVec.extractLsb'_toNat ..

theorem be16_hi8_lo8 (c : Half) : be16 (hi8 c) (lo8 c) = c := by
  apply BitVec.eq_of_toNat_eq
  rw [be16_toNat, hi8_toNat, lo8_toNat, Nat.div_add_mod']

/-- Settles O27: the high byte is the quotient by 256 and the low byte the remainder. -/
theorem checksumBytesReadBack : Obligations.ChecksumBytesReadBack :=
  ⟨be16_hi8_lo8, be16_toNat, fun c => ⟨hi8_toNat c, lo8_toNat c⟩⟩

/-! ## The engine's step of phase CK -/

theorem ckStep_cksum (ho : s.op = .cksum) : ckStep s = cksumStep s := by simp only [ckStep, ho]

theorem ckStep_verify (ho : s.op = .verify) : ckStep s = verifyStep s := by simp only [ckStep, ho]

theorem step_ck {ready up : Bool} {rest : List Event} (hscript : s.script = .engine ready up :: rest)
    (hp : s.phase = .ck) : step s = .next (ckStep { s with script := rest }) := by
  rw [step_engine hscript, engineTurn_ck (s := { s with script := rest }) hp, settle_done]

/-- Settles O28: CKSUM's turn of phase CK. -/
theorem cksumStepWritesTheChecksum : Obligations.CksumStepWritesTheChecksum := by
  intro s ready up rest hscript hp ho
  rw [step_ck hscript hp, ckStep_cksum (s := { s with script := rest }) ho]; rfl

/-- Settles O29: VERIFY's turn of phase CK. -/
theorem verifyStepComparesTheClaim : Obligations.VerifyStepComparesTheClaim := by
  intro s ready up rest hscript hp ho
  rw [step_ck hscript hp, ckStep_verify (s := { s with script := rest }) ho]; rfl

end Sys2Proof.Machine
end

section
/-! PROOFS. 40_checksum: VERIFY from the CTRL write to its result (O30). -/

namespace Sys2Proof.Machine

variable {s : State} {hi lo : Byte} {bs : List Byte} {rest : List Event}

/-- A start that is neither dropped nor refused for its arguments (R251). -/
theorem startOp_of_argOk {op : Op} (begin : State → State) (hb : s.busy = false) (ha : argOk op s = true) :
    startOp op begin s = begin { clearResult s with busy := true, op := op } := by
  simp [startOp, hb, ha]

/-- The engine with VERIFY started, in phase CK (R144, R251). -/
def verifyStarted (s : State) : State :=
  { s with busy := true, done := false, result := .ok, op := .verify, phase := .ck }

theorem execState_verify (hb : s.busy = false) (hlo : 2 ≤ s.txLen.toNat) (hhi : s.txLen.toNat ≤ 512) :
    execState .verify s = verifyStarted s :=
  startOp_of_argOk (op := .verify) (fun t => { t with phase := .ck }) hb (decide_eq_true ⟨hlo, hhi⟩)

/-- The CTRL write of VERIFY with legal arguments, while no operation runs. -/
theorem step_verify (hb : s.busy = false) (hlo : 2 ≤ s.txLen.toNat) (hhi : s.txLen.toNat ≤ 512)
    (hscript : s.script = .host 0x000#12 ⟨4, .write 2#32⟩ :: rest) :
    step s = .next (verifyStarted (respond false 0 { s with script := rest })) := by
  have hdecode : decodeCtrl 2#32 = .verify := by decide
  rw [step_host hscript, hostAccess_ctrl, settle_run, hdecode,
    execState_verify (s := respond false 0 { s with script := rest }) hb hlo hhi]

/-- TXBUF read as a claim followed by the bytes it covers (R144). -/
theorem txBytes_claim (h : txBytes s (bs.length + 2) = hi :: lo :: bs) : txbuf s 0 = hi ∧ txbuf s 1 = lo := by
  have hhead : txBytes s (bs.length + 2) = txbuf s 0 :: txbuf s 1 :: (txBytes s (bs.length + 2)).drop 2 := by
    simp [txBytes, List.range_succ_eq_map]
  rw [hhead, List.cons.injEq, List.cons.injEq] at h
  obtain ⟨h0, h1, -⟩ := h
  exact ⟨h0, h1⟩

/-- VERIFY's engine step on a claim that is the checksum of the bytes after it (R144, R145). -/
theorem verifyStep_of_checksum (hlen : s.txLen.toNat = bs.length + 2)
    (h : txBytes s (bs.length + 2) = hi8 (cksum16 bs) :: lo8 (cksum16 bs) :: bs) :
    verifyStep s = finish .ok { s with ckClaim := cksum16 bs, ckCalc := cksum16 bs } := by
  obtain ⟨h0, h1⟩ := txBytes_claim h
  have hcovered : (txBytes s s.txLen.toNat).drop 2 = bs := by rw [hlen, h]; rfl
  simp only [verifyStep, hcovered, h0, h1, be16_hi8_lo8, if_true]

/-- Settles O30: the CTRL write starts VERIFY, and its turn finds the claim equal to the checksum. -/
theorem verifyOfChecksumFinishesOk : Obligations.VerifyOfChecksumFinishesOk := by
  intro s bs ready up rest hb hle hlen hbytes hscript
  have hstart := step_verify hb (by omega) (by omega) hscript
  have hturn := step_ck (s := verifyStarted (respond false 0 { s with script := .engine ready up :: rest })) rfl rfl
  rw [ckStep_verify rfl, verifyStep_of_checksum (by exact hlen) (by exact hbytes)] at hturn
  have hrun := (run_succ hstart 1).trans (run_succ hturn 0)
  exact ⟨_, hrun, rfl, rfl, rfl, rfl, rfl, readByte_congr rfl rfl, rfl⟩

end Sys2Proof.Machine
end

section
/-! PROOFS. 41_command_codec: the engine's turn in the phases TX (O31), RX (O32) and RCHK (O33). -/

namespace Sys2Proof.Machine

variable {s : State} {ready up : Bool} {rest : List Event}

/-! ## Phase TX -/

theorem step_tx (hscript : s.script = .engine ready up :: rest) (hp : s.phase = .tx) :
    step s = .next (if ready then txStep { s with script := rest } else { s with script := rest }) := by
  rw [step_engine hscript, engineTurn_tx (s := { s with script := rest }) hp, settle_done]

/-- While the packet has a byte left, that byte is sent (R163). -/
theorem txStep_of_lt (h : s.tidx < s.txpkt.length) :
    txStep s =
      { s with
        tx := s.tx ++ [s.txpkt[s.tidx]], tidx := s.tidx + 1
        phase := if s.tidx + 1 = s.txpkt.length then .rx else .tx } := by
  simp only [txStep, List.getElem?_eq_getElem h]

/-- Settles O31: the turn is `txStep` when the transport accepts and nothing when it does not. -/
theorem transmitStepSendsOneByte : Obligations.TransmitStepSendsOneByte := by
  intro s ready up rest hscript hp hlt
  rw [step_tx hscript hp]
  constructor
  · intro hready
    rw [if_pos hready, txStep_of_lt (s := { s with script := rest }) hlt]
  · intro hready
    rw [hready, if_neg Bool.false_ne_true]

/-! ## Phase RX -/

theorem step_rx {r : Byte} {q : List Byte} (hscript : s.script = .engine ready up :: rest) (hp : s.phase = .rx)
    (hq : s.rx = r :: q) : step s = .next (rxStep r { s with script := rest, rx := q }) := by
  rw [step_engine hscript, engineTurn_rx (s := { s with script := rest }) hp hq, settle_done]

/-- Settles O32: the turn is `rxStep`, which writes RXBUF[RX_CNT] alone and whose other changes are listed. -/
theorem receiveStepStoresOneByte : Obligations.ReceiveStepStoresOneByte := by
  intro s ready up rest r q hscript hp hq hlt hm
  have hread := readByte_rxStep (s := { s with script := rest, rx := q }) hm hlt r
  refine ⟨_, step_rx hscript hp hq, ?_, fun a ha => ?_, ?_⟩
  · exact (hread _).trans (if_pos rfl)
  · exact (hread a).trans (if_neg ha)
  · rw [rxStep_eq]

/-! ## Phase RCHK -/

theorem step_rchk (hscript : s.script = .engine ready up :: rest) (hp : s.phase = .rchk) :
    step s = .next (rchkStep { s with script := rest }) := by
  rw [step_engine hscript, engineTurn_rchk (s := { s with script := rest }) hp, settle_done]

/-- All the response check can change: CKREG, and what a completion writes (R166-R168). -/
theorem rchkStep_eq (s : State) :
    rchkStep s = finish (rchkStep s).result
      { s with ckClaim := be16 (rxbuf s 0) (rxbuf s 1), ckCalc := cksum16 (rxBytes s 2 (s.rneed - 2)) } := rfl

/-- A checksum that differs from the claim is the result, whatever the length field (R166). -/
theorem rchkStep_result_of_checksum_ne
    (hck : cksum16 (rxBytes s 2 (s.rneed - 2)) ≠ be16 (rxbuf s 0) (rxbuf s 1)) :
    (rchkStep s).result = .checksumMismatch := if_pos hck

/-- With a good checksum the length field alone decides (R167, R168). -/
theorem rchkStep_result_of_checksum_eq
    (hck : cksum16 (rxBytes s 2 (s.rneed - 2)) = be16 (rxbuf s 0) (rxbuf s 1)) :
    (rchkStep s).result = if (rxbuf s 3).toNat ≠ s.respLen.toNat then .lengthMismatch else .ok :=
  if_neg (not_not_intro hck)

/-- Settles O33: the turn is `rchkStep`, whose result is the checksum's verdict first and the length's second. -/
theorem responseCheckTestsChecksumThenLength : Obligations.ResponseCheckTestsChecksumThenLength := by
  intro s ready up rest hscript hp
  refine ⟨(rchkStep s).result, ?_, rchkStep_result_of_checksum_ne, fun hck hlen => ?_, fun hck hlen => ?_⟩
  · rw [step_rchk hscript hp, rchkStep_eq]; rfl
  · rw [rchkStep_result_of_checksum_eq hck, if_pos hlen]
  · rw [rchkStep_result_of_checksum_eq hck, if_neg (not_not_intro hlen)]

end Sys2Proof.Machine
end

section
/-! PROOFS. 42_stream_decoder: the engine's turns that take no byte: a read that may time out (O34), an empty poll
(O36), the frame check (O44) and EMIT (O45). -/

namespace Sys2Proof.Machine

variable {s : State} {ready up : Bool} {rest : List Event}

/-! ## Turns that find no byte -/

theorem step_wait (hscript : s.script = .engine ready up :: rest)
    (hp : s.phase = .rx ∨ s.phase = .hdr ∨ s.phase = .pay ∨ s.phase = .stoprd) (hq : s.rx = []) :
    step s = .next (readWaits up { s with script := rest }) := by
  rw [step_engine hscript, engineTurn_wait (s := { s with script := rest }) hp hq, settle_done]

theorem readWaits_timeout (hto : s.toEn = true) (hup : up = true) : readWaits up s = finish .transportTimeout s := by
  rw [readWaits, hto, hup]; rfl

theorem readWaits_still (h : s.toEn = false ∨ up = false) : readWaits up s = s := by
  rcases readWaits_cases up s with ⟨hto, hup, -⟩ | e
  · simp [hto, hup] at h
  · exact e

/-- Settles O34: the turn is `readWaits`, which finishes with TO_EN = 1 and a timeout, and changes nothing otherwise. -/
theorem readTimesOutOnlyWhenEnabled : Obligations.ReadTimesOutOnlyWhenEnabled := by
  intro s ready up rest hscript hp hq
  rw [step_wait hscript hp hq]
  constructor
  · intro hto hup
    rw [readWaits_timeout (s := { s with script := rest }) hto hup]; rfl
  · intro hno
    rw [readWaits_still (s := { s with script := rest }) hno]

/-- Settles O36: the turn is `pollEmptyStep`. -/
theorem emptyPollEndsTheOperation : Obligations.EmptyPollEndsTheOperation := by
  intro s ready up rest hscript hp hq _
  rw [step_engine hscript, engineTurn_pollEmpty (s := { s with script := rest }) hp hq, settle_done]; rfl

/-! ## The frame check -/

theorem step_check (hscript : s.script = .engine ready up :: rest) (hp : s.phase = .check) :
    step s = .next (checkStep { s with script := rest }) := by
  rw [step_engine hscript, engineTurn_check (s := { s with script := rest }) hp, settle_done]

/-- The six header bytes after the claim. -/
theorem header_toList_drop_two (h : Vector Byte 8) : h.toList.drop 2 = [h[2], h[3], h[4], h[5], h[6], h[7]] := by
  apply List.ext_getElem
  · simp
  · intro i hi _
    have hi : i < 6 := by simpa using hi
    interval_cases i <;> simp

/-- What the streaming checksum covers, byte by byte (R114). -/
theorem streamCovered_eq (s : State) :
    streamCovered s = [s.hdr[2], s.hdr[3], s.hdr[4], s.hdr[5], s.hdr[6], s.hdr[7]] ++ payBytes s s.plen := by
  rw [streamCovered, header_toList_drop_two]

/-- Settles O44: the turn is `checkStep`; a good frame has passed, and a bad one is dropped and ends TRY_DECODE
alone. -/
theorem frameCheckAcceptsOrDrops : Obligations.FrameCheckAcceptsOrDrops := by
  intro s ready up rest calc' claim' hscript hp hcalc hclaim
  rw [← streamCovered_eq] at hcalc
  subst hcalc hclaim
  rw [step_check hscript hp]
  refine ⟨fun hgood => ?_, fun hbad hop => ?_, fun hbad hop => ?_⟩
  · exact congrArg Host.Outcome.next (checkStep_good (more := s.rx) hgood)
  · exact congrArg Host.Outcome.next ((checkStep_bad hbad).trans (endTryOrPoll_try (s := dropped s s.rx rest) hop _))
  · exact congrArg Host.Outcome.next ((checkStep_bad hbad).trans (endTryOrPoll_drain (s := dropped s s.rx rest) hop _))

/-! ## EMIT -/

theorem step_emit (hscript : s.script = .engine ready up :: rest) (hp : s.phase = .emit) :
    step s = .next (emitStep { s with script := rest }) := by
  rw [step_engine hscript, engineTurn_emit (s := { s with script := rest }) hp, settle_done]

theorem emitStep_no_room (h : s.params.sampleDepth < s.sample.length + emitCount s ∨
    s.params.fdescDepth < s.fdesc.length + 1) : emitStep s = s := by
  have hroom : ¬emitRoom s = true := by rw [emitRoom_iff]; omega
  rw [emitStep, if_neg hroom]

theorem emitCount_data (hk : s.kind = .data) : emitCount s = s.plen / 2 := by rw [emitCount, hk]

theorem emitCount_stop (hk : s.kind = .stop) : emitCount s = 0 := by rw [emitCount, hk]

/-- Sample code k of consecutive bytes is bytes 2k and 2k+1, high byte first (R112). -/
theorem sampleCodes_map_range (f : Nat → Byte) (n : Nat) :
    sampleCodes ((List.range n).map f) = (List.range (n / 2)).map fun k => be16 (f (2 * k)) (f (2 * k + 1)) := by
  induction n using Nat.twoStepInduction generalizing f with
  | zero => rfl
  | one => rfl
  | more n ih _ =>
    have hbytes : (List.range (n + 2)).map f = f 0 :: f 1 :: (List.range n).map fun i => f (i + 2) := by
      simp [List.range_succ_eq_map]
    rw [hbytes, sampleCodes, ih, Nat.add_div_right n (by decide), List.range_succ_eq_map]
    simp [Nat.mul_add]

/-- A data frame in EMIT with all its samples and its descriptor pushed, and counted, less its end (R204). -/
def emitted (s : State) : State :=
  { s with
    sample := s.sample ++ (List.range (s.plen / 2)).map fun k => be16 (paybuf s (2 * k)) (paybuf s (2 * k + 1))
    fdesc := s.fdesc ++ [⟨s.hdr[4], BitVec.ofNat 8 (s.plen / 2), .data⟩]
    nframes := s.nframes + 1 }

theorem emitStep_data_of_room (hk : s.kind = .data) (hsample : s.sample.length + s.plen / 2 ≤ s.params.sampleDepth)
    (hfdesc : s.fdesc.length + 1 ≤ s.params.fdescDepth) :
    emitStep s = endTryOrPoll .frameDecoded (emitted s) := by
  have hroom : emitRoom s = true := (emitRoom_iff s).mpr ⟨by rwa [emitCount_data hk], hfdesc⟩
  rw [emitStep_data hk hroom]
  simp only [pushFrame, emitCodes, emitDesc, hk, payBytes, sampleCodes_map_range, emitted]

/-- A stop notification with room: its descriptor alone (R204). -/
theorem emitStep_stop_of_room (hk : s.kind = .stop) (hsample : s.sample.length ≤ s.params.sampleDepth)
    (hfdesc : s.fdesc.length + 1 ≤ s.params.fdescDepth) :
    emitStep s = finish .streamStopped { s with fdesc := s.fdesc ++ [⟨s.aux2, 0, .stop⟩] } := by
  have hroom : emitRoom s = true := (emitRoom_iff s).mpr ⟨by rwa [emitCount_stop hk], hfdesc⟩
  rw [emitStep_stop hk hroom, pushFrame_stop hk]

/-- Settles O45: with room the whole frame is pushed, by kind and operation; with either FIFO short nothing changes. -/
theorem emitPushesAWholeFrameOrWaits : Obligations.EmitPushesAWholeFrameOrWaits := by
  intro s ready up rest hscript hp
  rw [step_emit hscript hp]
  refine ⟨fun n codes hn hcodes hk hsample hfdesc => ?_, fun hk hsample hfdesc => ?_, fun hk hfull => ?_,
    fun hfull => ?_⟩
  · subst hn hcodes
    rw [emitStep_data_of_room (s := { s with script := rest }) hk hsample hfdesc]
    exact ⟨fun hop => congrArg Host.Outcome.next (endTryOrPoll_try (s := emitted { s with script := rest }) hop _),
      fun hop => congrArg Host.Outcome.next (endTryOrPoll_drain (s := emitted { s with script := rest }) hop _)⟩
  · exact congrArg Host.Outcome.next (emitStep_stop_of_room (s := { s with script := rest }) hk hsample hfdesc)
  · have hcount : emitCount { s with script := rest } = s.plen / 2 := emitCount_data hk
    exact congrArg Host.Outcome.next (emitStep_no_room (.inl (hcount ▸ hfull)))
  · exact congrArg Host.Outcome.next (emitStep_no_room (.inr hfull))

end Sys2Proof.Machine
end

section
/-! PROOFS. 42_stream_decoder: the tokens, each in the phase its row names: MARKER (O37, O46), UNEXPECTED (O38), ESC
(O39), a logical byte of the header (O40, O41) or of the payload (O43), and STOPB (O42). -/

namespace Sys2Proof.Machine

variable {s : State} {i : Instr} {b : Byte}

/-! ## Phase POLL -/

theorem exec_marker (hp : s.phase = .poll) : exec .marker s = .next (startFrame s) := by
  rw [exec_eq, execState_marker hp]

/-- Settles O37: MARKER is the per-frame reset. -/
theorem markerStartsAFrame : Obligations.MarkerStartsAFrame := fun _ hp => exec_marker hp

/-- Settles O46: the per-frame reset writes every field in which the two states differ, but for eng.kind. -/
theorem frameForgetsEarlierFrames : Obligations.FrameForgetsEarlierFrames :=
  fun s _ _ _ _ _ _ _ hp => ⟨startFrame s, exec_marker hp, exec_marker hp⟩

/-- An unexpected byte counted and shown (R195). -/
def counted (b : Byte) (s : State) : State := { s with unexpCnt := s.unexpCnt + 1, aux1 := b }

theorem exec_unexpected (hp : s.phase = .poll) (b : Byte) :
    exec (.unexpected b) s = .next (endTryOrPoll .unexpectedByte (counted b s)) :=
  congrArg Host.Outcome.next (if_pos hp)

theorem exec_unexpected_try (hp : s.phase = .poll) (hop : s.op = .tryDecode) :
    exec (.unexpected b) s = .next (finish .unexpectedByte (counted b s)) := by
  rw [exec_unexpected hp, endTryOrPoll_try (s := counted b s) hop]

theorem exec_unexpected_drain (hp : s.phase = .poll) (hop : s.op = .drain) :
    exec (.unexpected b) s = .next { counted b s with phase := .poll } := by
  rw [exec_unexpected hp, endTryOrPoll_drain (s := counted b s) hop]

/-- In the engine's turn the byte is taken off the RX stream too (R195). -/
theorem step_unexpected {ready up : Bool} {rest : List Event} {q : List Byte} (hp : s.phase = .poll)
    (hb : b ≠ markerByte) (hscript : s.script = .engine ready up :: rest) (hq : s.rx = b :: q) :
    step s = exec (.unexpected b) { s with script := rest, rx := q } := by
  rw [step, fetch_token hscript hq (.inl hp), token_unexpected (s := { s with script := rest }) hp hb]

/-- Settles O38: counting and showing the byte, then the end by operation, by the instruction and by the turn alike. -/
theorem unexpectedByteIsCounted : Obligations.UnexpectedByteIsCounted := by
  intro s b hp hb
  refine ⟨exec_unexpected_try hp, exec_unexpected_drain hp, fun ready up rest q hscript hq => ?_⟩
  rw [step_unexpected hp hb hscript hq]
  exact ⟨exec_unexpected_try (s := { s with script := rest, rx := q }) hp,
    exec_unexpected_drain (s := { s with script := rest, rx := q }) hp⟩

/-! ## Logical bytes of a frame -/

/-- Settles O39: the escape byte. -/
theorem escapeByteOnlySetsEsc : Obligations.EscapeByteOnlySetsEsc := by
  intro s hp he
  rw [exec_eq, execState_esc hp he]

theorem exec_lit (hp : s.phase = .hdr ∨ s.phase = .pay) (he : s.esc = false) (b : Byte) :
    exec (.lit b) s = .next (acceptLogical b { s with esc := false }) := by
  rw [exec_eq, execState_lit hp he, clearEsc_eq he]

theorem exec_escd (hp : s.phase = .hdr ∨ s.phase = .pay) (he : s.esc = true) (r : Byte) :
    exec (.escd r) s = .next (acceptLogical (unescape r) { s with esc := false }) := by
  rw [exec_eq, execState_escd hp he]

/-- A logical byte has one effect, raw or escaped (R196, R197, R201). -/
theorem exec_logical (hp : s.phase = .hdr ∨ s.phase = .pay)
    (hi : (s.esc = false ∧ b ≠ escByte ∧ i = .lit b) ∨ (s.esc = true ∧ ∃ r, i = .escd r ∧ b = unescape r)) :
    exec i s = .next (acceptLogical b { s with esc := false }) := by
  rcases hi with ⟨he, -, rfl⟩ | ⟨he, r, rfl, rfl⟩
  · exact exec_lit hp he b
  · exact exec_escd hp he r

/-! ## Phase HDR -/

/-- The stop code at header byte 2 is stored, counted and starts the stop notification (R198). -/
theorem acceptLogical_stop_eq (hp : s.phase = .hdr) (h2 : s.hcnt = 2) (hb : b = s.stopCode) :
    acceptLogical b s = { s with hdr := s.hdr.setIfInBounds 2 b, hcnt := 3, scnt := 0, phase := .stoprd } := by
  rw [hb, acceptLogical_stop hp h2]
  simp only [enterStop, storeHdr, h2]

/-- The eighth header byte ends the header, whose length field is byte 3 (R200). -/
theorem acceptHdr_last (h7 : s.hcnt = 7) (b : Byte) :
    acceptHdr b s =
      { s with
        hdr := s.hdr.setIfInBounds 7 b, hcnt := 8, plen := plenOf s.hdr[3], pcnt := 0, esc := false
        phase := if plenOf s.hdr[3] = 0 then .check else .pay } := by
  have hlen : (s.hdr.setIfInBounds 7 b)[3] = s.hdr[3] := Vector.getElem_setIfInBounds_ne (by decide) (by decide)
  rcases acceptHdr_cases b s with ⟨h2, -, -⟩ | ⟨-, e⟩ | ⟨hne, -, -⟩
  · omega
  · rw [e]; simp only [headerDone, storeHdr, h7, hlen]
  · exact absurd h7 hne

/-- Any other header byte is stored and counted (R196). -/
theorem acceptHdr_store (hstop : ¬(s.hcnt = 2 ∧ b = s.stopCode)) (h7 : s.hcnt ≠ 7) :
    acceptHdr b s = storeHdr b s := by
  rcases acceptHdr_cases b s with ⟨h2, hb, -⟩ | ⟨h, -⟩ | ⟨-, -, e⟩
  · exact absurd ⟨h2, hb⟩ hstop
  · exact absurd h h7
  · exact e

/-- Settles O40: the logical byte goes to `acceptHdr`, which tests it at counts 2 and 7. -/
theorem headerByteIsStoredAndTested : Obligations.HeaderByteIsStoredAndTested := by
  intro s i b hp _ hi
  rw [exec_logical (.inl hp) hi]
  refine ⟨fun h2 hb => ?_, fun h7 plen hplen => ?_, fun hstop h7 => ?_⟩
  · exact congrArg Host.Outcome.next (acceptLogical_stop_eq (s := { s with esc := false }) hp h2 hb)
  · rw [acceptLogical_hdr (s := { s with esc := false }) hp, hplen]
    exact congrArg Host.Outcome.next (acceptHdr_last (s := { s with esc := false }) h7 b)
  · rw [acceptLogical_hdr (s := { s with esc := false }) hp]
    exact congrArg Host.Outcome.next (acceptHdr_store (s := { s with esc := false }) hstop h7)

/-- STOP has the effect of a logical byte that is the stop code (R198, log 10). -/
theorem exec_stop (hp : s.phase = .hdr) (h2 : s.hcnt = 2) :
    exec (.stop s.stopCode) s = .next (acceptLogical s.stopCode { s with esc := false }) := by
  rw [exec_eq, execState_stop hp h2]
  exact congrArg Host.Outcome.next (acceptLogical_stop (s := { s with esc := false }) hp h2).symm

/-- Settles O41: STOP, LIT and ESCD are one logical byte, the stop code at header byte 2. -/
theorem stopAbandonsTheHeader : Obligations.StopAbandonsTheHeader := by
  intro s b hp h2 hb
  subst hb
  rw [exec_stop hp h2]
  refine ⟨?_, fun he => exec_lit (.inl hp) he _, fun r he hr => ?_⟩
  · exact congrArg Host.Outcome.next (acceptLogical_stop_eq (s := { s with esc := false }) hp h2 rfl)
  · rw [exec_escd (.inl hp) he, hr]; rfl

/-! ## Phase STOPRD -/

theorem exec_stopb (hp : s.phase = .stoprd) (r : Byte) :
    exec (.stopb r) s = .next (if s.scnt = 0 then takeEcho r s else takeChannel r s) :=
  congrArg Host.Outcome.next (if_pos hp)

/-- Settles O42: the two bytes, told apart by eng.scnt. -/
theorem stopBytesAreTakenRaw : Obligations.StopBytesAreTakenRaw := by
  intro s r hp
  rw [exec_stopb hp]
  exact ⟨fun h0 => congrArg Host.Outcome.next (if_pos h0), fun h0 => congrArg Host.Outcome.next (if_neg h0)⟩

/-! ## Phase PAY -/

/-- PAYBUF after a logical payload byte (R201). -/
theorem paybuf_acceptPay (hm : Memory.wf s.pay) (hlt : s.pcnt < payMax) (b : Byte) (k : Nat) :
    paybuf (acceptPay b s) k = if k = s.pcnt then b else paybuf s k := by
  rw [← paybuf_storePaybuf s s.pcnt k b hm hlt, acceptPay_eq, storePaybuf_eq]; rfl

/-- Settles O43: the logical byte goes to `acceptPay`, which writes PAYBUF[pcnt] alone and whose other changes are
listed. -/
theorem payloadByteIsStored : Obligations.PayloadByteIsStored := by
  intro s i b hp hlt hm hi
  have hread := paybuf_acceptPay (s := { s with esc := false }) hm hlt b
  refine ⟨acceptPay b { s with esc := false }, ?_, ?_, fun k hk => ?_, ?_⟩
  · rw [exec_logical (.inr hp) hi, acceptLogical_pay (s := { s with esc := false }) hp]
  · exact (hread _).trans (if_pos rfl)
  · exact (hread k).trans (if_neg hk)
  · rw [acceptPay_eq]

end Sys2Proof.Machine
end

section
/-! PROOFS. 43_control: a step runs the instruction it presents (O6), and what NOP, ABORT, CLRWI (O13) and the starts,
dropped while an operation runs (O12) or begun when none does (O11), make of the state. -/

namespace Sys2Proof.Machine

variable {s : State}

/-! ## The step of a presented instruction -/

theorem step_of_fetch {i : Instr} {t : State} (h : fetch s = .run i t) : step s = exec i t := by
  unfold step; rw [h]

theorem fetch_host {a : Offset} {rq : Request} {rest : List Event} (hs : s.script = .host a rq :: rest) :
    fetch s = hostAccess a rq { s with script := rest } := by
  unfold fetch; rw [hs]; rfl

/-- A CTRL write runs what its word decodes to, with the write answered (R250). -/
theorem step_ctrl {w : Word} {rest : List Event} (hs : s.script = .host 0x000#12 ⟨4, .write w⟩ :: rest) :
    step s = exec (decodeCtrl w) (respond false 0 { s with script := rest }) :=
  step_of_fetch ((fetch_host hs).trans (hostAccess_ctrl w))

theorem present_of_decode {f : Format} {w : Word} {i : Instr} (h : decode f w = .ok i) :
    present f w s = .run i s := by
  unfold present; rw [h]

theorem present_of_reject {f : Format} {w : Word} {e : Reject} (h : decode f w = .error e) :
    present f w s = .done s := by
  unfold present; rw [h]

/-- Settles O6: each clause names the instruction fetched and the state it is fetched with. -/
theorem stepRunsThePresentedInstruction : Obligations.StepRunsThePresentedInstruction := by
  refine ⟨fun _ _ _ h => step_of_fetch h, fun _ _ _ hs => step_ctrl hs, fun s w rest i hs hi => ?_,
    fun s ready up rest r q i hs hq hp hi => ?_⟩
  · have hfetch : fetch s = .run i (respond false 0 { s with script := rest }) := by
      rw [fetch_host hs, hostAccess_status, present_of_decode hi]
    exact step_of_fetch hfetch
  · have hfetch : fetch s = .run i { s with script := rest, rx := q } :=
      (fetch_token hs hq hp).trans (takeToken_of_decode (s := { s with script := rest }) hi)
    exact step_of_fetch hfetch

/-! ## NOP, ABORT and CLRWI -/

theorem exec_abort_of_busy (hb : s.busy = true) : exec .abort s = .next (finish .aborted { s with esc := false }) :=
  congrArg Host.Outcome.next (if_pos hb)

theorem exec_abort_of_idle (hb : s.busy = false) : exec .abort s = .next s :=
  congrArg Host.Outcome.next (if_neg (Bool.eq_false_iff.mp hb))

/-- Settles O13: only ABORT looks at BUSY. -/
theorem nopAbortAndClearIgnored : Obligations.NopAbortAndClearIgnored :=
  fun _ => ⟨rfl, exec_abort_of_busy, exec_abort_of_idle, rfl⟩

/-! ## A start while an operation runs -/

/-- The instructions R250 drops while BUSY = 1: the five starts and the reserved codes. -/
def IsStart (i : Instr) : Prop :=
  i = .cksum ∨ i = .verify ∨ i = .sendCmd ∨ i = .tryDecode ∨ i = .drain ∨
    (∃ op, i = .badOpLow op) ∨ (∃ op, i = .badOpHigh op)

theorem exec_start_of_busy {i : Instr} (hb : s.busy = true) (hi : IsStart i) : exec i s = .next (ignoreWrite s) := by
  rcases hi with rfl | rfl | rfl | rfl | rfl | ⟨op, rfl⟩ | ⟨op, rfl⟩ <;> apply congrArg Host.Outcome.next
  · exact startOp_of_busy _ _ hb
  · exact startOp_of_busy _ _ hb
  · exact startOp_of_busy _ _ hb
  · exact startOp_of_busy _ _ hb
  · exact startOp_of_busy _ _ hb
  · exact startReserved_of_busy hb
  · exact startReserved_of_busy hb

/-- Settles O12: a dropped start is a dropped write. -/
theorem startWhileBusyIsDropped : Obligations.StartWhileBusyIsDropped := fun _ _ => exec_start_of_busy

/-! ## A start when no operation runs -/

theorem argOk_cksum_iff : argOk .cksum s = true ↔ s.txLen.toNat ≤ 512 := decide_eq_true_iff

theorem argOk_verify_iff : argOk .verify s = true ↔ 2 ≤ s.txLen.toNat ∧ s.txLen.toNat ≤ 512 := decide_eq_true_iff

theorem argOk_sendCmd_iff : argOk .sendCmd s = true ↔ s.txLen.toNat ≤ 512 ∧ s.respLen.toNat ≤ 508 :=
  decide_eq_true_iff

/-- Illegal arguments finish BAD_ARG before anything of the operation is begun (R251). -/
theorem startOp_of_not_argOk {op : Op} (begin : State → State) (hb : s.busy = false) (ha : ¬argOk op s = true) :
    startOp op begin s = finish .badArg (clearResult s) := by
  simp [startOp, hb, ha]

theorem startReserved_of_idle (hb : s.busy = false) : startReserved s = finish .badOp (clearResult s) :=
  if_neg (Bool.eq_false_iff.mp hb)

/-- Settles O11: legal arguments begin the operation, illegal ones and the reserved codes finish at once. -/
theorem operationStartWhenIdle : Obligations.OperationStartWhenIdle := by
  intro s hb
  refine ⟨fun h => ?_, fun hlo hhi => ?_, fun htx hresp => ?_, ?_, ?_, fun h => ?_, fun h => ?_, fun h => ?_,
    fun _ _ => ?_, fun _ _ => ?_⟩ <;> apply congrArg Host.Outcome.next
  · exact startOp_of_argOk _ hb (argOk_cksum_iff.mpr h)
  · exact startOp_of_argOk _ hb (argOk_verify_iff.mpr ⟨hlo, hhi⟩)
  · exact startOp_of_argOk _ hb (argOk_sendCmd_iff.mpr ⟨htx, hresp⟩)
  · exact startOp_of_argOk _ hb rfl
  · exact startOp_of_argOk _ hb rfl
  · exact startOp_of_not_argOk _ hb (argOk_cksum_iff.not.mpr (by omega))
  · exact startOp_of_not_argOk _ hb (argOk_verify_iff.not.mpr (by omega))
  · exact startOp_of_not_argOk _ hb (argOk_sendCmd_iff.not.mpr (by omega))
  · exact startReserved_of_idle hb
  · exact startReserved_of_idle hb

end Sys2Proof.Machine
end

section
/-! PROOFS. 43_control: what a write of CTRL (O10) and of STATUS (O14) does, for every word. -/

namespace Sys2Proof.Machine

variable {s : State}

/-! ## CTRL -/

/-- Every operation code but NOP's is a start (R102, R250). -/
theorem isStart_decodeOp {op : BitVec 4} (h : op ≠ 0#4) : IsStart (decodeOp op) := by
  unfold decodeOp
  rw [if_neg h]
  (repeat' split) <;> simp [IsStart]

/-- Settles O10: the decoder makes the choice among SRST, ABORT and OP; a start other than NOP is dropped by BUSY. -/
theorem ctrlWriteDoesExactlyOneThing : Obligations.CtrlWriteDoesExactlyOneThing := by
  intro s v rest hs
  refine ⟨some ⟨false, 0⟩, fun h9 => ?_, fun h9 h8 => ?_, fun h9 h8 hop => ?_, fun h9 h8 hop hb => ?_,
    fun h9 h8 _ _ => ?_⟩
  · rw [step_ctrl hs, decodeCtrl_srst h9]; rfl
  · rw [step_ctrl hs, decodeCtrl_abort h9 h8]; rfl
  · rw [step_ctrl hs, decodeCtrl_op h9 h8, hop]; rfl
  · rw [step_ctrl hs, decodeCtrl_op h9 h8]
    exact exec_start_of_busy (s := respond false 0 { s with script := rest }) hb (isStart_decodeOp hop)
  · rw [step_ctrl hs, decodeCtrl_op h9 h8]; rfl

/-! ## STATUS -/

theorem decode_statusWrite_clear {v : Word} (h8 : v.getLsbD 8 = true) : decode .statusWrite v = .ok .clrwi :=
  if_pos h8

theorem decode_statusWrite_other {v : Word} (h8 : v.getLsbD 8 = false) :
    decode .statusWrite v = .error .statusWithoutClear := if_neg (Bool.eq_false_iff.mp h8)

/-- A STATUS write is CLRWI by bit 8, and otherwise nothing (R256, log 22). -/
theorem settle_present_status (v : Word) (s : State) :
    settle (present .statusWrite v s) = if v.getLsbD 8 then clearIgnored s else s := by
  cases h8 : v.getLsbD 8 with
  | true => rw [present_of_decode (decode_statusWrite_clear h8)]; rfl
  | false => rw [present_of_reject (decode_statusWrite_other h8)]; rfl

/-- Settles O14: bit 8 alone selects between CLRWI and nothing. -/
theorem statusWriteChangesOnlyWrIgnored : Obligations.StatusWriteChangesOnlyWrIgnored := by
  intro s v rest hs
  refine ⟨some ⟨false, 0⟩, ?_⟩
  rw [step_host hs, hostAccess_status, settle_present_status]
  cases v.getLsbD 8 <;> rfl

end Sys2Proof.Machine
end

section
/-! PROOFS. 60_exceptions: an operation that ends leaves one of its own results (O53). -/

namespace Sys2Proof.Machine

variable {s t : State} {o : Op}

/-- What a step can make of a running operation `o`: it runs on, a reset clears DONE, or it has a result that R271
lists for it. -/
inductive State.EndsWithin (o : Op) (t : State) : Prop where
  | runs (hb : t.busy = true)
  | reset (hd : t.done = false)
  | ends (hr : t.result ∈ resultsOf o)

/-! ## Which results are whose -/

/-- TRY_DECODE and DRAIN alone have the phases of a frame (R44). -/
theorem State.OpInv.decodes (h : s.OpInv) (hp : s.phase ∈ phasesOf .drain) : s.op = .tryDecode ∨ s.op = .drain := by
  have e := phasesOf_eq_of_mem hp h.phase_op
  cases ho : s.op <;> simp [ho, phasesOf] at e ⊢

theorem aborted_mem_resultsOf (ho : o ≠ .none) : .aborted ∈ resultsOf o := by
  cases o <;> simp [resultsOf] at ho ⊢

/-- The phases that read and wait are SEND_CMD's and the decodes' (R207). -/
theorem State.OpInv.timeout_mem (h : s.OpInv)
    (hp : s.phase = .rx ∨ s.phase = .hdr ∨ s.phase = .pay ∨ s.phase = .stoprd) :
    .transportTimeout ∈ resultsOf s.op := by
  rcases hp with hp | hp
  · rw [h.sendCmd (by simp [hp, phasesOf])]; decide
  · have hdrain : s.phase ∈ phasesOf .drain := by
      rcases hp with hp | hp | hp <;> simp [hp, phasesOf]
    rcases h.decodes hdrain with ho | ho <;> rw [ho] <;> decide

theorem State.OpInv.streamStopped_mem (h : s.OpInv) (hp : s.phase = .emit) : .streamStopped ∈ resultsOf s.op := by
  rcases h.decodes (by simp [hp, phasesOf]) with ho | ho <;> rw [ho] <;> decide

/-! ## Where an operation may end -/

/-- Only TRY_DECODE ends here; DRAIN goes on polling (R191, R192). -/
theorem endTryOrPoll_endsWithin {r : Result} (hb : s.busy = true) (hop : s.op = o) (hr : r ∈ resultsOf .tryDecode) :
    (endTryOrPoll r s).EndsWithin o := by
  rcases endTryOrPoll_cases r s with ⟨htry, e⟩ | ⟨-, e⟩ <;> rw [e]
  · rw [← hop, htry]; exact .ends hr
  · exact .runs hb

theorem ckStep_endsWithin (hb : s.busy = true) : (ckStep s).EndsWithin s.op := by
  cases ho : s.op with
  | cksum => rw [ckStep_cksum ho]; exact .ends (by simp [cksumStep, resultsOf])
  | verify =>
    rw [ckStep_verify ho]
    refine .ends ?_
    show (if _ then Result.ok else Result.checksumMismatch) ∈ _
    split <;> decide
  | none | sendCmd | tryDecode | drain => simp only [ckStep, ho]; exact .runs hb

theorem rchkStep_endsWithin (h : s.OpInv) (hp : s.phase = .rchk) : (rchkStep s).EndsWithin s.op := by
  rw [h.sendCmd (by simp [hp, phasesOf])]
  refine .ends ?_
  show (if _ then Result.checksumMismatch else if _ then Result.lengthMismatch else Result.ok) ∈ _
  (repeat' split) <;> decide

theorem pollEmptyStep_endsWithin (h : s.OpInv) (hp : s.phase = .poll) : (pollEmptyStep s).EndsWithin s.op := by
  refine .ends ?_
  show (if s.op = .tryDecode then Result.noData else Result.ok) ∈ _
  rcases h.decodes (by simp [hp, phasesOf]) with ho | ho <;> rw [ho] <;> decide

theorem checkStep_endsWithin (hb : s.busy = true) : (checkStep s).EndsWithin s.op := by
  rcases checkStep_cases s with ⟨-, e⟩ | ⟨-, e⟩ <;> rw [e]
  · exact .runs hb
  · exact endTryOrPoll_endsWithin hb rfl (by decide)

theorem emitStep_endsWithin (h : s.OpInv) (hb : s.busy = true) (hp : s.phase = .emit) :
    (emitStep s).EndsWithin s.op := by
  rcases emitStep_cases s with ⟨-, e⟩ | ⟨-, -, e⟩ | ⟨-, -, e⟩ <;> rw [e]
  · exact .runs hb
  · exact endTryOrPoll_endsWithin hb rfl (by decide)
  · exact .ends (h.streamStopped_mem hp)

/-- Of the instructions only ABORT and an unexpected byte end a running operation, and SRST resets it. -/
theorem execState_endsWithin (i : Instr) (hb : s.busy = true) (ho : s.op ≠ .none) :
    (execState i s).EndsWithin s.op := by
  have start (op : Op) (begin : State → State) : (startOp op begin s).EndsWithin s.op := by
    rw [startOp_of_busy op begin hb]; exact .runs hb
  have reserved : (startReserved s).EndsWithin s.op := by
    rw [startReserved_of_busy hb]; exact .runs hb
  cases i with
  | nop | clrwi => exact .runs hb
  | cksum | verify => exact start _ fun u => { u with phase := .ck }
  | sendCmd => exact start _ beginSend
  | tryDecode | drain => exact start _ beginDecode
  | badOpLow _ | badOpHigh _ => exact reserved
  | abort =>
    show State.EndsWithin s.op (if s.busy then finish .aborted { s with esc := false } else s)
    rw [if_pos hb]; exact .ends (aborted_mem_resultsOf ho)
  | srst => exact .reset rfl
  | marker =>
    show State.EndsWithin s.op (if s.phase = .poll then startFrame s else s)
    split <;> exact .runs hb
  | unexpected b =>
    show State.EndsWithin s.op (if s.phase = .poll then endTryOrPoll .unexpectedByte (counted b s) else s)
    split
    · exact endTryOrPoll_endsWithin hb rfl (by decide)
    · exact .runs hb
  | esc =>
    show State.EndsWithin s.op (if inFrame s && !s.esc then { s with esc := true } else s)
    split <;> exact .runs hb
  | lit b =>
    show State.EndsWithin s.op (if inFrame s && !s.esc then acceptLogical b s else s)
    split
    · exact .runs ((acceptLogical_busy b s).trans hb)
    · exact .runs hb
  | escd r =>
    show State.EndsWithin s.op (if inFrame s && s.esc then acceptLogical (unescape r) { s with esc := false } else s)
    split
    · exact .runs ((acceptLogical_busy _ _).trans hb)
    · exact .runs hb
  | stopb r =>
    show State.EndsWithin s.op (if s.phase = .stoprd then (if s.scnt = 0 then takeEcho r s else takeChannel r s) else s)
    (repeat' split) <;> exact .runs hb
  | stop b =>
    show State.EndsWithin s.op (if s.phase = .hdr ∧ s.hcnt = 2 ∧ b = s.stopCode then
      enterStop (storeHdr b { s with esc := false }) else s)
    split <;> exact .runs hb

/-! ## Every step -/

theorem Move.endsWithin (hm : Move s t) (h : s.OpInv) (ho : s.op ≠ .none) : t.EndsWithin s.op := by
  have hb : s.busy = true := h.busy_op.mpr ho
  cases hm with
  | still | busError | acknowledge | deliver => exact .runs hb
  | read a => exact .runs ((readEffect_busy a s).trans hb)
  | write a v => exact .runs ((hostWrite_busy a v _).trans hb)
  | hostInstr _ _ i => exact execState_endsWithin (s := respond false 0 s) i hb ho
  | ck => exact ckStep_endsWithin hb
  | transmit => exact .runs ((txStep_busy s).trans hb)
  | receive r rest => rw [rxStep_eq]; exact .runs hb
  | rchk hp => exact rchkStep_endsWithin h hp
  | timeout hp => exact .ends (h.timeout_mem hp)
  | pollEmpty hp => exact pollEmptyStep_endsWithin h hp
  | token _ rest i => exact execState_endsWithin (s := { s with rx := rest }) i hb ho
  | check => exact checkStep_endsWithin hb
  | emit hp => exact emitStep_endsWithin h hb hp
  | powerOn => exact .reset rfl

theorem step_endsWithin (h : s.OpInv) (ho : s.op ≠ .none) (hs : step s = .next t) : t.EndsWithin s.op := by
  rcases step_cases hs with ⟨-, rfl⟩ | ⟨e, rest, -, hm⟩
  · exact .runs (h.busy_op.mpr ho)
  · exact hm.endsWithin (h.keep rfl rfl) ho

/-- Settles O53: with DONE set no reset was made, and by the invariant (O51) no operation runs on. -/
theorem operationEndsWithOneOfItsResults : Obligations.OperationEndsWithOneOfItsResults := by
  intro s t h ho hs hdone
  cases step_endsWithin h.op ho hs with
  | runs hb =>
    obtain ⟨hclear, -⟩ := (everyStepKeepsTheInvariant s t h hs).op.busy_result hb
    rw [hclear] at hdone; contradiction
  | reset hclear => rw [hclear] at hdone; contradiction
  | ends hr => exact hr

end Sys2Proof.Machine
end

section
/-! PROOFS. 70_reset_and_hazards: what SRST (O16) and a power-on reset (O17) keep of the state before them. -/

namespace Sys2Proof.Machine

/-- R255, R302: SRST keeps the stored bytes, and the count of power-on resets that decides the bytes not yet written. -/
theorem readByte_softReset (s : State) (a : Nat) : readByte (softReset s) a = readByte s a :=
  readByte_congr rfl rfl a

/-- The transport's streams and the model arguments are the same in both states. -/
def State.SameTransport (s t : State) : Prop := t.rx = s.rx ∧ t.tx = s.tx ∧ t.params = s.params

/-- R303, for what both resets are made from. -/
theorem keepOutside_sameTransport (s fresh : State) : s.SameTransport (keepOutside s fresh) := ⟨rfl, rfl, rfl⟩

theorem softReset_sameTransport (s : State) : s.SameTransport (softReset s) :=
  keepOutside_sameTransport s State.reset

theorem powerOnReset_sameTransport (s : State) : s.SameTransport (powerOnReset s) :=
  keepOutside_sameTransport s State.reset

theorem step_powerOn {s : State} {rest : List Event} (hs : s.script = .powerOn :: rest) :
    step s = .next (powerOnReset { s with script := rest }) := step_of_script hs

/-- Settles O16: SRST is the soft reset, which has R47's values and keeps the byte stores and the transport. -/
theorem softResetKeepsBuffersAndTransport : Obligations.SoftResetKeepsBuffersAndTransport :=
  fun s => ⟨softReset s, rfl, softReset_atResetValues s, readByte_softReset s, softReset_sameTransport s⟩

/-- Settles O17: the step consumes its event and resets; what lies outside the engine stays, the later script too. -/
theorem powerOnResetKeepsTransport : Obligations.PowerOnResetKeepsTransport := by
  intro s rest hs
  obtain ⟨hrx, htx, hparams⟩ := powerOnReset_sameTransport { s with script := rest }
  exact ⟨_, step_powerOn hs, powerOnReset_atResetValues _, hrx, htx, hparams, rfl⟩

end Sys2Proof.Machine
end
